-- ==== Sys2Proof/Word.lean ====
section
/-! DEFINITION. The word types of the go-acht CHIP-8 core. Every value is unsigned (00_scope.md R10). -/

namespace Sys2Proof

/-- A memory byte, a general register or a timer: 8 bits (R7). -/
abbrev Byte := BitVec 8

/-- An opcode, the program counter, the index register or a stack entry: 16 bits (R7). -/
abbrev Word := BitVec 16

/-- A general register number, or a key number: 0x0 to 0xF (R21, R33). -/
abbrev Reg := Fin 16

end Sys2Proof
end

