-- ==== Sys2Proof/Syntax.lean ====
section
/-! DEFINITION. The instruction set: one constructor per row of spec/opcode_table.json (30_encoding.md R75, R82).
Bits that the decoder ignores (R78) are no operands and have no field here. -/

namespace Sys2Proof

/-- The 34 instructions. `x`, `y`: register numbers; `kk`: 8-bit immediate; `nnn`: 12-bit address; `n`: sprite height in
rows (R72). -/
inductive Instr where
  /-- 0nE0, clear screen (R190). -/
  | cls
  /-- 0nEE, return from subroutine (R121). -/
  | ret
  /-- 1NNN, JP addr (R122). -/
  | jp (nnn : BitVec 12)
  /-- 2NNN, CALL addr (R123). -/
  | call (nnn : BitVec 12)
  /-- 3XKK, SE Vx, byte (R124). -/
  | seImm (x : Reg) (kk : Byte)
  /-- 4XKK, SNE Vx, byte (R125). -/
  | sneImm (x : Reg) (kk : Byte)
  /-- 5XYn, SE Vx, Vy (R126). -/
  | seReg (x y : Reg)
  /-- 6XKK, LD Vx, byte (R141). -/
  | ldImm (x : Reg) (kk : Byte)
  /-- 7XKK, ADD Vx, byte (R142). -/
  | addImm (x : Reg) (kk : Byte)
  /-- 8XY0, LD Vx, Vy (R143). -/
  | ldReg (x y : Reg)
  /-- 8XY1, OR Vx, Vy (R144). -/
  | orReg (x y : Reg)
  /-- 8XY2, AND Vx, Vy (R145). -/
  | andReg (x y : Reg)
  /-- 8XY3, XOR Vx, Vy (R146). -/
  | xorReg (x y : Reg)
  /-- 8XY4, ADD Vx, Vy (R147). -/
  | addReg (x y : Reg)
  /-- 8XY5, SUB Vx, Vy (R148). -/
  | sub (x y : Reg)
  /-- 8XY6, SHR Vx, Vy; `y` is encoded but not read (R149). -/
  | shr (x y : Reg)
  /-- 8XY7, SUBN Vx, Vy (R150). -/
  | subn (x y : Reg)
  /-- 8XYE, SHL Vx, Vy; `y` is encoded but not read (R151). -/
  | shl (x y : Reg)
  /-- 9XYn, SNE Vx, Vy (R127). -/
  | sneReg (x y : Reg)
  /-- ANNN, LD I, addr (R170). -/
  | ldI (nnn : BitVec 12)
  /-- BNNN, JP V0, addr (R128). -/
  | jpV0 (nnn : BitVec 12)
  /-- CXKK, RND Vx, byte (R152). -/
  | rnd (x : Reg) (kk : Byte)
  /-- DXYN, DRW Vx, Vy, nibble (R191); `n` is a count of rows. -/
  | drw (x y : Reg) (n : Nat)
  /-- EX9E, SKP Vx (R200). -/
  | skp (x : Reg)
  /-- EXA1, SKNP Vx (R201). -/
  | sknp (x : Reg)
  /-- FX07, LD Vx, DT (R202). -/
  | ldVxDT (x : Reg)
  /-- FX0A, LD Vx, K (R203). -/
  | ldVxK (x : Reg)
  /-- FX15, LD DT, Vx (R204). -/
  | ldDT (x : Reg)
  /-- FX18, LD ST, Vx (R205). -/
  | ldST (x : Reg)
  /-- FX1E, ADD I, Vx (R171). -/
  | addI (x : Reg)
  /-- FX29, LD F, Vx (R172). -/
  | ldF (x : Reg)
  /-- FX33, LD B, Vx (R173). -/
  | ldB (x : Reg)
  /-- FX55, LD [I], Vx (R174). -/
  | dump (x : Reg)
  /-- FX65, LD Vx, [I] (R175). -/
  | load (x : Reg)
  deriving DecidableEq, Repr

end Sys2Proof
end

