-- ==== Sys2Proof/WellFormed.lean ====
section
/-! DEFINITION. Which terms of `Instr` are instructions. Register numbers, immediates and addresses are bounded by their
types; the one operand held as a plain count is the sprite height of DRW, a 4-bit field (30_encoding.md R71, R72). -/

namespace Sys2Proof

/-- The sprite height fits its 4-bit field: 0 to 15 (R191: "height in rows, 0 to 15"). -/
def heightFits (n : Nat) : Bool := n ≤ 15

/-- The check of R71 and R72 on an instruction's operands. -/
def Instr.wellFormed : Instr → Bool
  | .drw _ _ n => heightFits n
  | .cls | .ret | .jp _ | .call _ | .seImm _ _ | .sneImm _ _ | .seReg _ _ | .ldImm _ _ | .addImm _ _ | .ldReg _ _
  | .orReg _ _ | .andReg _ _ | .xorReg _ _ | .addReg _ _ | .sub _ _ | .shr _ _ | .subn _ _ | .shl _ _ | .sneReg _ _
  | .ldI _ | .jpV0 _ | .rnd _ _ | .skp _ | .sknp _ | .ldVxDT _ | .ldVxK _ | .ldDT _ | .ldST _ | .addI _ | .ldF _
  | .ldB _ | .dump _ | .load _ => true

end Sys2Proof
end

