-- ==== Sys2Proof/Decode.lean ====
section
/-! DEFINITION. The decoder of 30_encoding.md (mask by the high nibble, look the key up), the encoder, and the opcode
table as data. The byte order and the bit fields are fixed here, once. -/

namespace Sys2Proof

/-! ## Byte order and fields -/

/-- Big-endian: the first byte is bits 15..8 (20_memory.md R57). -/
def joinBytes (hi lo : Byte) : Word := hi ++ lo

/-- Bits 15..8, the byte at the lower address. -/
def highByte (w : Word) : Byte := w.extractLsb' 8 8

/-- Bits 7..0, the byte at the higher address. -/
def lowByte (w : Word) : Byte := w.extractLsb' 0 8

/-- F = op[15:12] (R71). -/
def fieldF (op : Word) : BitVec 4 := op.extractLsb' 12 4

/-- x = op[11:8] (R71). -/
def fieldX (op : Word) : Reg := (op.extractLsb' 8 4).toFin

/-- y = op[7:4] (R71). -/
def fieldY (op : Word) : Reg := (op.extractLsb' 4 4).toFin

/-- n = op[3:0] (R71). -/
def fieldN (op : Word) : Nat := (op.extractLsb' 0 4).toNat

/-- kk = op[7:0] (R71). -/
def fieldKK (op : Word) : Byte := op.extractLsb' 0 8

/-- nnn = op[11:0] (R71). -/
def fieldNNN (op : Word) : BitVec 12 := op.extractLsb' 0 12

/-! ## The decoder -/

/-- The mask that the high nibble chooses (R74). -/
def familyMask (f : BitVec 4) : Word :=
  if f = 0x0#4 then 0x00FF#16
  else if f = 0x8#4 then 0xF00F#16
  else if f = 0xE#4 ∨ f = 0xF#4 then 0xF0FF#16
  else 0xF000#16

/-- `key = OPCODE & mask(OPCODE[15:12])` (R76). -/
def dispatchKey (op : Word) : Word := op &&& familyMask (fieldF op)

/-- The instruction an opcode stands for; `none` is an unknown opcode (R76, R80). The keys are the 34 of R75. -/
def decodeWord (op : Word) : Option Instr :=
  let x := fieldX op
  let y := fieldY op
  match dispatchKey op with
  | 0x00E0#16 => some .cls
  | 0x00EE#16 => some .ret
  | 0x1000#16 => some (.jp (fieldNNN op))
  | 0x2000#16 => some (.call (fieldNNN op))
  | 0x3000#16 => some (.seImm x (fieldKK op))
  | 0x4000#16 => some (.sneImm x (fieldKK op))
  | 0x5000#16 => some (.seReg x y)
  | 0x6000#16 => some (.ldImm x (fieldKK op))
  | 0x7000#16 => some (.addImm x (fieldKK op))
  | 0x8000#16 => some (.ldReg x y)
  | 0x8001#16 => some (.orReg x y)
  | 0x8002#16 => some (.andReg x y)
  | 0x8003#16 => some (.xorReg x y)
  | 0x8004#16 => some (.addReg x y)
  | 0x8005#16 => some (.sub x y)
  | 0x8006#16 => some (.shr x y)
  | 0x8007#16 => some (.subn x y)
  | 0x800E#16 => some (.shl x y)
  | 0x9000#16 => some (.sneReg x y)
  | 0xA000#16 => some (.ldI (fieldNNN op))
  | 0xB000#16 => some (.jpV0 (fieldNNN op))
  | 0xC000#16 => some (.rnd x (fieldKK op))
  | 0xD000#16 => some (.drw x y (fieldN op))
  | 0xE09E#16 => some (.skp x)
  | 0xE0A1#16 => some (.sknp x)
  | 0xF007#16 => some (.ldVxDT x)
  | 0xF00A#16 => some (.ldVxK x)
  | 0xF015#16 => some (.ldDT x)
  | 0xF018#16 => some (.ldST x)
  | 0xF01E#16 => some (.addI x)
  | 0xF029#16 => some (.ldF x)
  | 0xF033#16 => some (.ldB x)
  | 0xF055#16 => some (.dump x)
  | 0xF065#16 => some (.load x)
  | _ => none

/-- Why bytes are no instruction. -/
inductive DecodeError where
  /-- Fewer than two bytes. -/
  | truncated
  /-- The word's key is not registered (R80). -/
  | unknownOpcode (op : Word)
  deriving DecidableEq, Repr

/-- What decoding answers: an instruction and the bytes after it, or the reason there is none. -/
inductive Decoded where
  | instr (i : Instr) (rest : List Byte)
  | rejected (why : DecodeError)
  deriving DecidableEq, Repr

/-- Decode the instruction at the head of a list of bytes: two bytes, big-endian (R57, R70, R81). -/
def decode : List Byte → Decoded
  | hi :: lo :: rest =>
    match decodeWord (joinBytes hi lo) with
    | some i => .instr i rest
    | none => .rejected (.unknownOpcode (joinBytes hi lo))
  | [] | [_] => .rejected .truncated

/-! ## The encoder -/

/-- A register number as a 4-bit field. -/
def regBits (r : Reg) : BitVec 4 := BitVec.ofFin r

/-- F X Y N (R70). -/
def packXYN (f : BitVec 4) (x y : Reg) (n : BitVec 4) : Word := f ++ regBits x ++ regBits y ++ n

/-- F X KK (R70). -/
def packXKK (f : BitVec 4) (x : Reg) (kk : Byte) : Word := f ++ regBits x ++ kk

/-- F NNN (R70). -/
def packNNN (f : BitVec 4) (nnn : BitVec 12) : Word := f ++ nnn

/-- The word of an instruction, every ignored bit zero (R82, R83). -/
def encode : Instr → Word
  | .cls => 0x00E0#16
  | .ret => 0x00EE#16
  | .jp nnn => packNNN 0x1 nnn
  | .call nnn => packNNN 0x2 nnn
  | .seImm x kk => packXKK 0x3 x kk
  | .sneImm x kk => packXKK 0x4 x kk
  | .seReg x y => packXYN 0x5 x y 0x0
  | .ldImm x kk => packXKK 0x6 x kk
  | .addImm x kk => packXKK 0x7 x kk
  | .ldReg x y => packXYN 0x8 x y 0x0
  | .orReg x y => packXYN 0x8 x y 0x1
  | .andReg x y => packXYN 0x8 x y 0x2
  | .xorReg x y => packXYN 0x8 x y 0x3
  | .addReg x y => packXYN 0x8 x y 0x4
  | .sub x y => packXYN 0x8 x y 0x5
  | .shr x y => packXYN 0x8 x y 0x6
  | .subn x y => packXYN 0x8 x y 0x7
  | .shl x y => packXYN 0x8 x y 0xE
  | .sneReg x y => packXYN 0x9 x y 0x0
  | .ldI nnn => packNNN 0xA nnn
  | .jpV0 nnn => packNNN 0xB nnn
  | .rnd x kk => packXKK 0xC x kk
  | .drw x y n => packXYN 0xD x y (BitVec.ofNat 4 n)
  | .skp x => packXKK 0xE x 0x9E
  | .sknp x => packXKK 0xE x 0xA1
  | .ldVxDT x => packXKK 0xF x 0x07
  | .ldVxK x => packXKK 0xF x 0x0A
  | .ldDT x => packXKK 0xF x 0x15
  | .ldST x => packXKK 0xF x 0x18
  | .addI x => packXKK 0xF x 0x1E
  | .ldF x => packXKK 0xF x 0x29
  | .ldB x => packXKK 0xF x 0x33
  | .dump x => packXKK 0xF x 0x55
  | .load x => packXKK 0xF x 0x65

/-- The bytes of an instruction as memory holds them, the high byte first (R57). -/
def encodeBytes (i : Instr) : List Byte := [highByte (encode i), lowByte (encode i)]

/-! ## The opcode table as data -/

/-- A row of opcode_table.json: an opcode is this instruction's iff `op & mask = key` (R77). -/
structure Row where
  key : Word
  mask : Word
  deriving DecidableEq, Repr

/-- The 34 rows, in the table's order (R75, R77). -/
def opcodeTable : List Row :=
  [⟨0x00E0, 0xF0FF⟩, ⟨0x00EE, 0xF0FF⟩, ⟨0x1000, 0xF000⟩, ⟨0x2000, 0xF000⟩, ⟨0x3000, 0xF000⟩, ⟨0x4000, 0xF000⟩,
    ⟨0x5000, 0xF000⟩, ⟨0x6000, 0xF000⟩, ⟨0x7000, 0xF000⟩] ++
  [⟨0x8000, 0xF00F⟩, ⟨0x8001, 0xF00F⟩, ⟨0x8002, 0xF00F⟩, ⟨0x8003, 0xF00F⟩, ⟨0x8004, 0xF00F⟩, ⟨0x8005, 0xF00F⟩,
    ⟨0x8006, 0xF00F⟩, ⟨0x8007, 0xF00F⟩, ⟨0x800E, 0xF00F⟩] ++
  [⟨0x9000, 0xF000⟩, ⟨0xA000, 0xF000⟩, ⟨0xB000, 0xF000⟩, ⟨0xC000, 0xF000⟩, ⟨0xD000, 0xF000⟩] ++
  [⟨0xE09E, 0xF0FF⟩, ⟨0xE0A1, 0xF0FF⟩] ++
  [⟨0xF007, 0xF0FF⟩, ⟨0xF00A, 0xF0FF⟩, ⟨0xF015, 0xF0FF⟩, ⟨0xF018, 0xF0FF⟩, ⟨0xF01E, 0xF0FF⟩, ⟨0xF029, 0xF0FF⟩,
    ⟨0xF033, 0xF0FF⟩, ⟨0xF055, 0xF0FF⟩, ⟨0xF065, 0xF0FF⟩]

/-- The row of opcode_table.json that an instruction stands for. -/
def Instr.row : Instr → Row
  | .cls => ⟨0x00E0, 0xF0FF⟩
  | .ret => ⟨0x00EE, 0xF0FF⟩
  | .jp _ => ⟨0x1000, 0xF000⟩
  | .call _ => ⟨0x2000, 0xF000⟩
  | .seImm _ _ => ⟨0x3000, 0xF000⟩
  | .sneImm _ _ => ⟨0x4000, 0xF000⟩
  | .seReg _ _ => ⟨0x5000, 0xF000⟩
  | .ldImm _ _ => ⟨0x6000, 0xF000⟩
  | .addImm _ _ => ⟨0x7000, 0xF000⟩
  | .ldReg _ _ => ⟨0x8000, 0xF00F⟩
  | .orReg _ _ => ⟨0x8001, 0xF00F⟩
  | .andReg _ _ => ⟨0x8002, 0xF00F⟩
  | .xorReg _ _ => ⟨0x8003, 0xF00F⟩
  | .addReg _ _ => ⟨0x8004, 0xF00F⟩
  | .sub _ _ => ⟨0x8005, 0xF00F⟩
  | .shr _ _ => ⟨0x8006, 0xF00F⟩
  | .subn _ _ => ⟨0x8007, 0xF00F⟩
  | .shl _ _ => ⟨0x800E, 0xF00F⟩
  | .sneReg _ _ => ⟨0x9000, 0xF000⟩
  | .ldI _ => ⟨0xA000, 0xF000⟩
  | .jpV0 _ => ⟨0xB000, 0xF000⟩
  | .rnd _ _ => ⟨0xC000, 0xF000⟩
  | .drw _ _ _ => ⟨0xD000, 0xF000⟩
  | .skp _ => ⟨0xE09E, 0xF0FF⟩
  | .sknp _ => ⟨0xE0A1, 0xF0FF⟩
  | .ldVxDT _ => ⟨0xF007, 0xF0FF⟩
  | .ldVxK _ => ⟨0xF00A, 0xF0FF⟩
  | .ldDT _ => ⟨0xF015, 0xF0FF⟩
  | .ldST _ => ⟨0xF018, 0xF0FF⟩
  | .addI _ => ⟨0xF01E, 0xF0FF⟩
  | .ldF _ => ⟨0xF029, 0xF0FF⟩
  | .ldB _ => ⟨0xF033, 0xF0FF⟩
  | .dump _ => ⟨0xF055, 0xF0FF⟩
  | .load _ => ⟨0xF065, 0xF0FF⟩

/-- The bits the decoder ignores in an instruction's words: 11..8 of CLS and RET, 3..0 of SE and SNE Vx, Vy (R78). -/
def Instr.ignoredBits : Instr → Word
  | .cls | .ret => 0x0F00#16
  | .seReg _ _ | .sneReg _ _ => 0x000F#16
  | .jp _ | .call _ | .seImm _ _ | .sneImm _ _ | .ldImm _ _ | .addImm _ _ | .ldReg _ _ | .orReg _ _ | .andReg _ _
  | .xorReg _ _ | .addReg _ _ | .sub _ _ | .shr _ _ | .subn _ _ | .shl _ _ | .ldI _ | .jpV0 _ | .rnd _ _ | .drw _ _ _
  | .skp _ | .sknp _ | .ldVxDT _ | .ldVxK _ | .ldDT _ | .ldST _ | .addI _ | .ldF _ | .ldB _ | .dump _ | .load _ =>
    0x0000#16

/-! ## The host's question -/

/-- What the decoder reads from a table word of `nbits` bits (bit 0 least significant): the word is laid out as the
hardware stores it, high byte first, and decoded. -/
def decodeTableWord (nbits w : Nat) : Option Instr :=
  let op : Word := BitVec.ofNat 16 (w % 2 ^ nbits)
  match decode [highByte op, lowByte op] with
  | .instr i _ => some i
  | .rejected _ => none

end Sys2Proof
end

