-- ==== Sys2Proof/Config.lean ====
section
/-! DEFINITION. What the source leaves to the implementation: the parameters of 00_scope.md R8 that change what an
instruction does, as plain data, and the oracles whose answers nothing constrains: the random byte, the choice among pressed
keys, and the schedule. -/

namespace Sys2Proof

/-- RESERVED_WRITE_POLICY (R54, D5): what a store to 0x000..0x1FF does. -/
inductive ReservedWritePolicy where
  | fault
  | write
  deriving DecidableEq, Repr

/-- FLAG_ORDER (R140, D7): the order of the two writes of a flag-producing instruction. -/
inductive FlagOrder where
  | sequential
  | flagLast
  deriving DecidableEq, Repr

/-- LOGIC_VF (R144 to R146, D8): whether OR, AND and XOR reset VF. -/
inductive LogicVF where
  | unchanged
  | reset
  deriving DecidableEq, Repr

/-- DRAW_COORD_READ (R191, D9): whether DRW reads its coordinates before or after it resets VF. -/
inductive DrawCoordRead where
  | beforeVFReset
  | afterVFReset
  deriving DecidableEq, Repr

/-- KEY_INDEX_POLICY (R206, D10): what EX9E and EXA1 do with a key index above 15. -/
inductive KeyIndexPolicy where
  | fault
  | lowNibble
  deriving DecidableEq, Repr

/-- KEY_TIEBREAK (R203, D11): which of several pressed keys FX0A stores. -/
inductive KeyTiebreak where
  | any
  | lowest
  | highest
  deriving DecidableEq, Repr

/-- The parameters of R8 that are choices of this hardware. `FONT` is memory contents (any state may hold any font),
`RESET_FILL` is taken at its default [log 2], `RNG` is `Config.rngByte`, `CPU_HZ` belongs to the untaken timed
refinement [log 26]. -/
structure Params where
  reservedWrite : ReservedWritePolicy
  flagOrder : FlagOrder
  logicVF : LogicVF
  drawCoordRead : DrawCoordRead
  keyIndex : KeyIndexPolicy
  keyTiebreak : KeyTiebreak
  deriving DecidableEq, Repr

/-- FREE VALUE [log 9]: the byte the random-number oracle answers to draw number `n` (R152, D12: "an oracle answering
one byte per RND, under no law"). It has no body: nothing can be proved of its value. -/
opaque Config.rngByte : Nat → Byte

/-- FREE VALUE [log 10]: the choice FX0A makes at draw number `n` under KEY_TIEBREAK = any (R203, D11). It is taken
modulo the number of pressed keys, so that every pressed key is possible and no other is. -/
opaque Config.keyChoice : Nat → Nat

namespace Machine

/-- KEY, or a snapshot of it: 16 pressed flags (R33, R234). -/
abbrev Keypad := Vector Bool 16

/-- One activity of the scheduler, with the input the host gives it (R236, R240). -/
inductive Activity where
  /-- One cycle of the cycle engine (R108). -/
  | cpu
  /-- One 60 Hz timer tick (R231). -/
  | timer
  /-- One redraw tick; `failed` is `renderer_failure` (R233, R239). -/
  | redraw (failed : Bool)
  /-- One input refresh that obtained a snapshot and the quit flag (R234, R235). -/
  | input (snapshot : Keypad) (quit : Bool)
  /-- One input refresh that obtained no valid snapshot (R239). -/
  | inputFailure
  deriving DecidableEq, Repr, Inhabited

end Machine

/-- FREE VALUE [log 6]: the activity the scheduler runs, with what the host hands it, at its choice number `n` (R237, D13,
D23: "any sequence of the four activities, in any order and any counts"). It has no body, so no claim can lean on any
schedule, on a tick that comes, or on one that does not. -/
opaque Config.schedule : Nat → Machine.Activity

end Sys2Proof
end

