-- ==== Sys2Proof/Machine/Defaults.lean ====
section
/-! DEFINITION. The values the spec chooses where the source gives none: the default parameters of 00_scope.md R8 and the
default font of 93_implementation_defined.md G1. -/

namespace Sys2Proof.Machine

/-- The defaults of R8 (decisions D5, D7, D8, D9, D10, D11). DESIGN CHOICE [log 1]. -/
def defaultParams : Params where
  reservedWrite := .fault
  flagOrder := .sequential
  logicVF := .unchanged
  drawCoordRead := .beforeVFReset
  keyIndex := .fault
  keyTiebreak := .any

/-- FONT: the 16 glyphs 0 to F, 5 bytes each (G1, D17). PRESUMED [log 3]: "from general knowledge, not in source". -/
def fontTable : List Byte :=
  [0xF0, 0x90, 0x90, 0x90, 0xF0, 0x20, 0x60, 0x20, 0x20, 0x70] ++
  [0xF0, 0x10, 0xF0, 0x80, 0xF0, 0xF0, 0x10, 0xF0, 0x10, 0xF0] ++
  [0x90, 0x90, 0xF0, 0x10, 0x10, 0xF0, 0x80, 0xF0, 0x10, 0xF0] ++
  [0xF0, 0x80, 0xF0, 0x90, 0xF0, 0xF0, 0x10, 0x20, 0x40, 0x40] ++
  [0xF0, 0x90, 0xF0, 0x90, 0xF0, 0xF0, 0x90, 0xF0, 0x10, 0xF0] ++
  [0xF0, 0x90, 0xF0, 0x90, 0x90, 0xE0, 0x90, 0xE0, 0x90, 0xE0] ++
  [0xF0, 0x80, 0x80, 0x80, 0xF0, 0xE0, 0x90, 0x90, 0x90, 0xE0] ++
  [0xF0, 0x80, 0xF0, 0x80, 0xF0, 0xF0, 0x80, 0xF0, 0x80, 0x80]

/-- The byte of RESET_FILL = zero (R40, D1). DESIGN CHOICE [log 2]. -/
def resetFill : Byte := 0x00

/-- Where the font stands: "base 0x050", 80 bytes (R7, R52). -/
def fontBase : Nat := 0x050

/-- Where the ROM is loaded, and the first fetch (R7, R264). -/
def programBase : Nat := 0x200

/-- The first address beyond memory: 4096 cells (R50). -/
def memSize : Nat := 0x1000

/-- The longest ROM image: 3584 bytes (R7, R243). -/
def maxRomLength : Nat := 3584

end Sys2Proof.Machine
end

