-- ==== Sys2Proof/Machine/State.lean ====
section
/-! DEFINITION. Everything the spec gives the machine (10_state.md R20), the interface's pending inputs (60_exceptions.md
R240), and the state after reset (R40). Plain data. -/

namespace Sys2Proof.Machine

/-- RUN (R36, R260). -/
inductive RunState where
  /-- "constructed, not yet initialized" -/
  | idle
  /-- "font/ROM loaded, loop active" -/
  | running
  /-- "terminal" -/
  | stopped
  deriving DecidableEq, Repr

/-- The fault kinds of R221. -/
inductive FaultKind where
  | memOutOfRange
  | stackOverflow
  | stackUnderflow
  | reservedWrite
  | keyIndexOutOfRange
  /-- Raised only under RESET_FILL = unwritten_faults, which this model does not take [log 2]: no step records it. -/
  | uninitRead
  deriving DecidableEq, Repr

/-- FAULT's record (R37, R221): `pc` is the faulting instruction's own address; `opcode` is `none` for a fetch that read
none (R107); `info` is the address, SP or register value that the kind's row of R221 names. -/
structure FaultRecord where
  kind : FaultKind
  pc : Word
  opcode : Option Word
  info : Nat
  deriving DecidableEq, Repr

/-- A record of DIAG: `UnknownOpcode(pc, opcode)` (R37, R104). -/
structure UnknownOpcode where
  pc : Word
  opcode : Word
  deriving DecidableEq, Repr

/-- The errors handed to the caller that are no `FAULT` (R226, R239, R265). The form is the model's own [log 8]. -/
inductive HostError where
  /-- The ROM is unreadable or too long (R226, R262). -/
  | loadError
  /-- The Renderer failed at a redraw tick (R239). -/
  | rendererFailure
  deriving DecidableEq, Repr

/-- What the ROM loader hands over in Idle (R240, R243, R262). -/
inductive RomImage where
  | image (bytes : List Byte)
  | unreadable
  deriving DecidableEq, Repr

/-- FB: 32 rows of 64 pixels, true meaning lit (R34). -/
abbrev FrameBuffer := Vector (Vector Bool 64) 32

/-- Memory cells that differ from what an unlisted address reads as, addresses strictly rising (`Memory.wf`). -/
abbrev Memory := List Host.Cell

/-- The schedule, in the model's own form [log 6]: the activities that the host has fixed, soonest first, and the number of
activities drawn so far from the free value `Config.schedule`, which decides whenever none is fixed (R236, R237). -/
structure Agenda where
  listed : List Activity
  drawn : Nat
  deriving DecidableEq, Repr

/-- The Machine State (R20), then the interface's data and the model's own fields. -/
structure State where
  /-- V0..VF (R21); VF is the flag (R22). -/
  v : Vector Byte 16
  /-- The program counter (R24). -/
  pc : Word
  /-- I, the index register (R28). -/
  idx : Word
  /-- SP, the number of entries in use, 0 to 16 (R29, R39). -/
  sp : Fin 17
  /-- STACK, entry 0 the oldest (R29, R30). -/
  stack : Vector Word 16
  /-- DT (R31). -/
  dt : Byte
  /-- ST (R32). -/
  st : Byte
  /-- KEY (R33). -/
  key : Keypad
  /-- FB (R34). -/
  fb : FrameBuffer
  /-- OPCODE, the word latched by the fetch (R35). -/
  opcode : Word
  /-- MEM (R50). -/
  mem : Memory
  /-- RUN (R36). -/
  run : RunState
  /-- FAULT (R37). -/
  fault : Option FaultRecord
  /-- DIAG, oldest first (R37). -/
  diag : List UnknownOpcode
  /-- The error reported to the caller beside FAULT (R239, R240 `load_error`). The model's own form [log 8]. -/
  report : Option HostError
  /-- The ROM image offered in Idle (R240 `rom_image`). The model's own form of an input [log 28]. -/
  loader : Option RomImage
  /-- What the scheduler runs next: what the host has fixed, else any activity. The model's own form [log 6]. -/
  agenda : Agenda
  /-- How many draws the oracles have answered; makes each draw a fresh free value. The model's own [log 9, 10]. -/
  draws : Nat
  /-- The parameters of R8: configuration, which no step writes (R41) [log 1]. -/
  params : Params
  deriving DecidableEq, Repr

/-- Why `step` answers no next state. Both are states in which the spec runs no activity (R36, R236): an instruction that
faults in the spec's sense is no case of this type, it answers a next state (R106, R222) [log 5]. -/
inductive Fault where
  /-- Raised by `step` when RUN = Stopped: "terminal", "nothing wakes it" (R36, R247, R260). Safe: the model goes nowhere
  where the machine goes nowhere. -/
  | stopped
  /-- Raised by `step` when RUN = Idle and no ROM image has been offered: initialisation has nothing to run on (R261).
  Safe: the machine makes no move until its loader does. -/
  | awaitingRom
  deriving DecidableEq, Repr

/-- Why an instruction has no meaning in the model. -/
inductive Refusal where
  /-- Raised by `exec` for an instruction that is not modelled yet, by its mnemonic. Safe. No instruction of this model
  is in that case. -/
  | notModelled (mnemonic : String)
  deriving DecidableEq, Repr

/-- The machine when it leaves Idle, before the first cycle (R40): `pc` = 0x200, memory at its reset contents (the font,
and RESET_FILL elsewhere), every other field at RESET_FILL = zero (D1) [log 2, 3, 4, 28]. -/
def State.reset : State where
  v := Vector.replicate 16 resetFill
  pc := BitVec.ofNat 16 programBase
  idx := 0
  sp := 0
  stack := Vector.replicate 16 0
  dt := 0
  st := 0
  key := Vector.replicate 16 false
  fb := Vector.replicate 32 (Vector.replicate 64 false)
  opcode := 0
  mem := []
  run := .running
  fault := none
  diag := []
  report := none
  loader := none
  agenda := { listed := [], drawn := 0 }
  draws := 0
  params := defaultParams

/-- The machine as constructed, before initialisation: RUN starts at Idle (R20, R260) [log 4]. -/
def State.created : State := { State.reset with run := .idle }

end Sys2Proof.Machine
end

