-- ==== Sys2Proof/Machine/Ops.lean ====
section
/-! DEFINITION. The named operations over registers, stack, memory, keypad and frame buffer; the access checks; taking a
fault. Every meaning is written over these. -/

namespace Sys2Proof.Machine

/-! ## General registers -/

/-- VF, the flag register (R22). -/
def VF : Reg := 15

/-- Read `V[r]` (R21). -/
def State.getV (s : State) (r : Reg) : Byte := s.v[r]

/-- `V[r] <- b` (R21). -/
def State.setV (s : State) (r : Reg) (b : Byte) : State := { s with v := s.v.set r b }

/-! ## Memory

What an unlisted address reads as is the reset contents: the font at 0x050..0x09F, RESET_FILL elsewhere (R40, R52). -/

/-- The byte that memory holds at `a` after reset (R40) [log 2, 3]. -/
def resetByte (a : Nat) : Byte :=
  if fontBase ≤ a then fontTable.getD (a - fontBase) resetFill else resetFill

/-- The byte at address `a`. -/
def Memory.read : Memory → Nat → Byte
  | [], a => resetByte a
  | (k, b) :: rest, a => if k = a then b else Memory.read rest a

/-- A cell, unless it says what an unlisted address says. -/
def Memory.consCell (a : Nat) (b : Byte) (rest : Memory) : Memory :=
  if b = resetByte a then rest else (a, b) :: rest

/-- Store byte `b` at address `a`, keeping the canonical form. -/
def Memory.write : Memory → Nat → Byte → Memory
  | [], a, b => Memory.consCell a b []
  | (k, c) :: rest, a, b =>
    if a < k then Memory.consCell a b ((k, c) :: rest)
    else if a = k then Memory.consCell a b rest
    else (k, c) :: Memory.write rest a b

/-- Addresses strictly rising from `lo`, all inside memory, and no cell equal to what an unlisted address reads as. -/
def Memory.wfFrom : Nat → Memory → Bool
  | _, [] => true
  | lo, (a, b) :: rest => lo ≤ a && a < memSize && b != resetByte a && Memory.wfFrom (a + 1) rest

/-- The canonical form of memory. -/
def Memory.wf (m : Memory) : Bool := Memory.wfFrom 0 m

/-- Store bytes at rising addresses from `a`. -/
def Memory.writeAll : Memory → Nat → List Byte → Memory
  | m, _, [] => m
  | m, a, b :: bs => Memory.writeAll (m.write a b) (a + 1) bs

/-- The byte at address `a` in a state. -/
def State.readByte (s : State) (a : Nat) : Byte := s.mem.read a

/-- Store a byte in a state. -/
def State.writeByte (s : State) (a : Nat) (b : Byte) : State := { s with mem := s.mem.write a b }

/-! ## Taking a fault -/

/-- The spec's numbering of the fault kinds (R221, D15). -/
def FaultKind.code : FaultKind → Nat
  | .memOutOfRange => 1
  | .stackOverflow => 2
  | .stackUnderflow => 3
  | .reservedWrite => 4
  | .keyIndexOutOfRange => 5
  | .uninitRead => 6

/-- TAKING A FAULT (R222): FAULT is set if it is none, RUN becomes Stopped, nothing else changes. There is no handler, no
saved state and no return from it (R220, R228). -/
def State.takeFault (r : FaultRecord) (s : State) : State :=
  { s with fault := s.fault.or (some r), run := .stopped }

/-- The address of the instruction that is executing: the fetch has advanced `pc` by 2 (R24, R106). -/
def State.instrAddr (s : State) : Word := s.pc - 2

/-- A fault raised by the executing instruction (R106): the record names its own address and its opcode, and the fetch's
writes (`opcode`, the advanced `pc`) stay. -/
def State.raise (kind : FaultKind) (info : Nat) (s : State) : Host.Outcome State Fault Refusal :=
  .next (s.takeFault { kind := kind, pc := s.instrAddr, opcode := some s.opcode, info := info })

/-! ## Access checks -/

/-- The check of `MemRead(a, 1)` (R53). -/
def readCheck (a : Nat) : Option FaultKind :=
  if a < memSize then none else some .memOutOfRange

/-- The check of `MemWrite(a, 1, v)` (R54). -/
def writeCheck (policy : ReservedWritePolicy) (a : Nat) : Option FaultKind :=
  if a < memSize then
    if a < programBase ∧ policy = .fault then some .reservedWrite else none
  else some .memOutOfRange

/-- The first failing address in access order, with the fault it raises (R56, R224). -/
def firstFault (check : Nat → Option FaultKind) : List Nat → Option (FaultKind × Nat)
  | [] => none
  | a :: rest =>
    match check a with
    | some k => some (k, a)
    | none => firstFault check rest

/-- An instruction with memory accesses: every address is checked before any state is written (R56, R223). -/
def State.accessing (s : State) (check : Nat → Option FaultKind) (addrs : List Nat) (done : State) :
    Host.Outcome State Fault Refusal :=
  match firstFault check addrs with
  | some (k, a) => s.raise k a
  | none => .next done

/-! ## Stack -/

/-- Push, with room: write `STACK[SP]`, then increment SP (R29, C1). -/
def State.push (s : State) (w : Word) (h : s.sp.val < 16) : State :=
  { s with stack := s.stack.set s.sp.val w, sp := ⟨s.sp.val + 1, by omega⟩ }

/-- SP after a pop (R29). -/
def State.popSp (s : State) : Fin 17 := ⟨s.sp.val - 1, by omega⟩

/-- The entry a pop reads, where SP is not 0: `STACK[SP - 1]`, which stays in place (R29, R121, D28). -/
def State.popEntry (s : State) : Word := s.stack[s.sp.val - 1]'(by omega)

/-! ## Program counter -/

/-- A skip: 2 more, on top of the fetch's 2 (R120). -/
def State.skipIf (s : State) (cond : Bool) : State :=
  if cond then { s with pc := s.pc + 2 } else s

/-! ## Frame buffer -/

/-- `FB[y][x]` (R34). -/
def State.pixel (s : State) (y : Fin 32) (x : Fin 64) : Bool := s.fb[y][x]

/-- `FB[y][x] <- b` (R34). -/
def State.setPixel (s : State) (y : Fin 32) (x : Fin 64) (b : Bool) : State :=
  { s with fb := s.fb.set y (s.fb[y].set x b) }

/-! ## Keypad and oracles -/

/-- The pressed keys, in rising order (R203). -/
def State.pressed (s : State) : List Reg := (List.finRange 16).filter fun k => s.key[k]

/-- One draw has been taken from an oracle. -/
def State.countDraw (s : State) : State := { s with draws := s.draws + 1 }

end Sys2Proof.Machine
end

