-- ==== Sys2Proof/Machine/Operands.lean ====
section
/-! DEFINITION. The operand forms: immediates, the one data addressing mode (I plus an unsigned offset), key indices,
decimal digits, glyph addresses and sprite cells. -/

namespace Sys2Proof.Machine

/-- `zext_16(nnn)` (R72). -/
def addrOperand (nnn : BitVec 12) : Word := nnn.setWidth 16

/-- `zext_16(V[x])` (R171, R128). -/
def wordOfByte (b : Byte) : Word := b.setWidth 16

/-- The effective address `I + k`, a natural number that never wraps (R55, R176). -/
def State.addr (s : State) (k : Nat) : Nat := s.idx.toNat + k

/-- The addresses `I + 0 .. I + (n - 1)` in access order (R55). -/
def State.addrs (s : State) (n : Nat) : List Nat := (List.range n).map s.addr

/-- `keyindex(v)` (R206): a hex key, or `none` where the policy faults. -/
def keyIndex (policy : KeyIndexPolicy) (b : Byte) : Option Reg :=
  if b.toNat ≤ 15 then some (Fin.ofNat 16 b.toNat)
  else
    match policy with
    | .fault => none
    | .lowNibble => some (Fin.ofNat 16 b.toNat)

/-- The hundreds digit, `v / 100` (R173). -/
def hundreds (b : Byte) : Byte := BitVec.ofNat 8 (b.toNat / 100)

/-- The tens digit, `(v / 10) % 10` (R173). -/
def tens (b : Byte) : Byte := BitVec.ofNat 8 (b.toNat / 10 % 10)

/-- The ones digit, `v % 10` (R173). -/
def ones (b : Byte) : Byte := BitVec.ofNat 8 (b.toNat % 10)

/-- The address of a glyph, `0x050 + 5 * V[x]`, not masked to a digit (R172). -/
def glyphAddr (b : Byte) : Word := BitVec.ofNat 16 (fontBase + 5 * b.toNat)

/-- The row of a sprite's row `r`: `(vy + r) mod 32` (R191). -/
def rowAt (vy : Byte) (r : Nat) : Fin 32 := Fin.ofNat 32 (vy.toNat + r)

/-- The column of a sprite's column `c`: `(vx + c) mod 64` (R191). -/
def colAt (vx : Byte) (c : Nat) : Fin 64 := Fin.ofNat 64 (vx.toNat + c)

/-- The bit of a sprite byte for column `c`, most significant first: `b[7 - c]` (R191). -/
def spriteBit (b : Byte) (c : Nat) : Bool := b.getLsbD (7 - c)

/-- The key FX0A stores out of the pressed ones, at draw number `n` (R203): any of them by a free choice, the lowest, or
the highest. With one key pressed all three agree. -/
def pickKey (policy : KeyTiebreak) (n : Nat) : List Reg → Option Reg
  | [] => none
  | [k] => some k
  | k :: k' :: rest =>
    match policy with
    | .any => (k :: k' :: rest)[Config.keyChoice n % (rest.length + 2)]?
    | .lowest => some k
    | .highest => (k' :: rest).getLast?

end Sys2Proof.Machine
end

