-- ==== Sys2Proof/Machine/Flags.lean ====
section
/-! DEFINITION. VF as a flag (R38): the carry, the strict "greater" of SUB and SUBN, the bits shifted out, the reset of VF
by the logic instructions, and the order in which a flag-producing instruction makes its two writes (R140). -/

namespace Sys2Proof.Machine

/-- A flag's value: 1 or 0. -/
def flagByte (b : Bool) : Byte := if b then 1 else 0

/-- The carry out of bit 7: `a + b > 255` (R147). -/
def carryFlag (a b : Byte) : Byte := flagByte (decide (a.toNat + b.toNat > 255))

/-- Not borrow, by the strict comparison `a > b` (R148, R150). -/
def greaterFlag (a b : Byte) : Byte := flagByte (decide (a.toNat > b.toNat))

/-- The bit that a shift right moves out: `a & 1` (R149). -/
def lowBitFlag (a : Byte) : Byte := a &&& 1

/-- The bit that a shift left moves out: `a >> 7` (R151). -/
def highBitFlag (a : Byte) : Byte := a >>> 7

/-- The two writes of a flag-producing instruction with destination `x` (R140). `sequential`: VF is written first, and
the result is then computed from the registers as that write left them. `flagLast`: both are computed from the registers
before the instruction, then `V[x]` and last VF are written. -/
def State.writeFlagAndResult (s : State) (x : Reg) (flag : Byte) (result : State → Byte) : State :=
  match s.params.flagOrder with
  | .sequential => (s.setV VF flag).setV x (result (s.setV VF flag))
  | .flagLast => (s.setV x (result s)).setV VF flag

/-- OR, AND and XOR reset VF only under LOGIC_VF = reset (R144 to R146). -/
def State.logicFlag (s : State) : State :=
  match s.params.logicVF with
  | .unchanged => s
  | .reset => s.setV VF 0

end Sys2Proof.Machine
end

