-- ==== Sys2Proof/Machine/Arithmetic.lean ====
section
/-! DEFINITION. 42_arithmetic_logic.md: loads, additions, the register ALU, the random byte. 8-bit unsigned, wrapping
(R153). -/

namespace Sys2Proof.Machine

/-- LD Vx, byte (R141). -/
def execLdImm (x : Reg) (kk : Byte) (s : State) : Host.Outcome State Fault Refusal :=
  .next (s.setV x kk)

/-- ADD Vx, byte (R142): no flag. -/
def execAddImm (x : Reg) (kk : Byte) (s : State) : Host.Outcome State Fault Refusal :=
  .next (s.setV x (s.getV x + kk))

/-- LD Vx, Vy (R143). -/
def execLdReg (x y : Reg) (s : State) : Host.Outcome State Fault Refusal :=
  .next (s.setV x (s.getV y))

/-- OR Vx, Vy (R144). -/
def execOr (x y : Reg) (s : State) : Host.Outcome State Fault Refusal :=
  .next (s.setV x (s.getV x ||| s.getV y)).logicFlag

/-- AND Vx, Vy (R145). -/
def execAnd (x y : Reg) (s : State) : Host.Outcome State Fault Refusal :=
  .next (s.setV x (s.getV x &&& s.getV y)).logicFlag

/-- XOR Vx, Vy (R146). -/
def execXor (x y : Reg) (s : State) : Host.Outcome State Fault Refusal :=
  .next (s.setV x (s.getV x ^^^ s.getV y)).logicFlag

/-- ADD Vx, Vy (R147): the sum is taken before either write, under both orders. -/
def execAddReg (x y : Reg) (s : State) : Host.Outcome State Fault Refusal :=
  .next (s.writeFlagAndResult x (carryFlag (s.getV x) (s.getV y)) fun _ => s.getV x + s.getV y)

/-- SUB Vx, Vy (R148). -/
def execSub (x y : Reg) (s : State) : Host.Outcome State Fault Refusal :=
  .next (s.writeFlagAndResult x (greaterFlag (s.getV x) (s.getV y)) fun r => r.getV x - r.getV y)

/-- SHR Vx (R149): Vy is not read. -/
def execShr (x _y : Reg) (s : State) : Host.Outcome State Fault Refusal :=
  .next (s.writeFlagAndResult x (lowBitFlag (s.getV x)) fun r => r.getV x >>> 1)

/-- SUBN Vx, Vy (R150). -/
def execSubn (x y : Reg) (s : State) : Host.Outcome State Fault Refusal :=
  .next (s.writeFlagAndResult x (greaterFlag (s.getV y) (s.getV x)) fun r => r.getV y - r.getV x)

/-- SHL Vx (R151): Vy is not read. -/
def execShl (x _y : Reg) (s : State) : Host.Outcome State Fault Refusal :=
  .next (s.writeFlagAndResult x (highBitFlag (s.getV x)) fun r => r.getV x <<< 1)

/-- RND Vx, byte (R152): the byte is a free value, a fresh one at every draw. -/
def execRnd (x : Reg) (kk : Byte) (s : State) : Host.Outcome State Fault Refusal :=
  .next (s.setV x (Config.rngByte s.draws &&& kk)).countDraw

end Sys2Proof.Machine
end

