-- ==== Sys2Proof/Machine/ControlFlow.lean ====
section
/-! DEFINITION. 41_control_flow.md: return, jumps, call, skips. Each meaning runs after the fetch, with `pc` already at
the next instruction (R101). -/

namespace Sys2Proof.Machine

/-- RET (R121). -/
def execRet (s : State) : Host.Outcome State Fault Refusal :=
  if s.sp.val = 0 then s.raise .stackUnderflow s.sp.val
  else .next { s with sp := s.popSp, pc := s.popEntry }

/-- JP addr (R122). -/
def execJp (nnn : BitVec 12) (s : State) : Host.Outcome State Fault Refusal :=
  .next { s with pc := addrOperand nnn }

/-- CALL addr (R123): the value pushed is the advanced `pc`. -/
def execCall (nnn : BitVec 12) (s : State) : Host.Outcome State Fault Refusal :=
  if h : s.sp.val < 16 then .next { s.push s.pc h with pc := addrOperand nnn }
  else s.raise .stackOverflow s.sp.val

/-- SE Vx, byte (R124). -/
def execSeImm (x : Reg) (kk : Byte) (s : State) : Host.Outcome State Fault Refusal :=
  .next (s.skipIf (s.getV x == kk))

/-- SNE Vx, byte (R125). -/
def execSneImm (x : Reg) (kk : Byte) (s : State) : Host.Outcome State Fault Refusal :=
  .next (s.skipIf (s.getV x != kk))

/-- SE Vx, Vy (R126). -/
def execSeReg (x y : Reg) (s : State) : Host.Outcome State Fault Refusal :=
  .next (s.skipIf (s.getV x == s.getV y))

/-- SNE Vx, Vy (R127). -/
def execSneReg (x y : Reg) (s : State) : Host.Outcome State Fault Refusal :=
  .next (s.skipIf (s.getV x != s.getV y))

/-- JP V0, addr (R128): the sum is not reduced to 12 bits. -/
def execJpV0 (nnn : BitVec 12) (s : State) : Host.Outcome State Fault Refusal :=
  .next { s with pc := wordOfByte (s.getV 0) + addrOperand nnn }

end Sys2Proof.Machine
end

