-- ==== Sys2Proof/Machine/Graphics.lean ====
section
/-! DEFINITION. 44_graphics.md: clear screen, draw sprite. Only the frame buffer is written; presentation is the redraw
activity's (R233). -/

namespace Sys2Proof.Machine

/-- CLS (R190). -/
def execCls (s : State) : Host.Outcome State Fault Refusal :=
  .next { s with fb := Vector.replicate 32 (Vector.replicate 64 false) }

/-- One set sprite bit at a cell: VF becomes 1 if the cell was lit, and the cell is inverted (R191). -/
def State.plot (s : State) (y : Fin 32) (x : Fin 64) : State :=
  (if s.pixel y x then s.setV VF 1 else s).setPixel y x (!s.pixel y x)

/-- The first `n` columns of a sprite byte, most significant bit first (R191). -/
def State.drawBits (vx : Byte) (y : Fin 32) (b : Byte) : Nat → State → State
  | 0, s => s
  | n + 1, s =>
    let t := State.drawBits vx y b n s
    if spriteBit b n then t.plot y (colAt vx n) else t

/-- The first `n` rows of a sprite, each byte read from `I + r` (R191). -/
def State.drawRows (vx vy : Byte) : Nat → State → State
  | 0, s => s
  | n + 1, s => State.drawBits vx (rowAt vy n) (s.readByte (s.addr n)) 8 (State.drawRows vx vy n s)

/-- The state that DRW reads its coordinates from: before or after `VF <- 0` (R191, D9). -/
def State.coordState (s : State) : State :=
  match s.params.drawCoordRead with
  | .beforeVFReset => s
  | .afterVFReset => s.setV VF 0

/-- DRW Vx, Vy, nibble (R191): every sprite address is checked before VF or any cell is written. -/
def execDrw (x y : Reg) (n : Nat) (s : State) : Host.Outcome State Fault Refusal :=
  s.accessing readCheck (s.addrs n)
    (State.drawRows (s.coordState.getV x) (s.coordState.getV y) n (s.setV VF 0))

end Sys2Proof.Machine
end

