-- ==== Sys2Proof/Machine/KeypadTimers.lean ====
section
/-! DEFINITION. 45_timers_keypad.md: the key skips, the timer registers, the wait for a key. -/

namespace Sys2Proof.Machine

/-- A key skip: the index is checked, then the skip depends on the key's flag (R200, R201, R206). -/
def State.skipOnKey (s : State) (x : Reg) (cond : Bool → Bool) : Host.Outcome State Fault Refusal :=
  match keyIndex s.params.keyIndex (s.getV x) with
  | some k => .next (s.skipIf (cond s.key[k]))
  | none => s.raise .keyIndexOutOfRange (s.getV x).toNat

/-- SKP Vx (R200). -/
def execSkp (x : Reg) (s : State) : Host.Outcome State Fault Refusal :=
  s.skipOnKey x fun pressed => pressed

/-- SKNP Vx (R201). -/
def execSknp (x : Reg) (s : State) : Host.Outcome State Fault Refusal :=
  s.skipOnKey x fun pressed => !pressed

/-- LD Vx, DT (R202). -/
def execLdVxDT (x : Reg) (s : State) : Host.Outcome State Fault Refusal :=
  .next (s.setV x s.dt)

/-- LD Vx, K (R203): with no key pressed, `pc` goes back by 2 and the instruction runs again next cycle; else `V[x]` gets
a pressed key. Only KEY_TIEBREAK = any takes a draw. -/
def execLdVxK (x : Reg) (s : State) : Host.Outcome State Fault Refusal :=
  match pickKey s.params.keyTiebreak s.draws s.pressed with
  | none => .next { s with pc := s.pc - 2 }
  | some k =>
    .next (if s.params.keyTiebreak = .any then (s.setV x (BitVec.ofNat 8 k.val)).countDraw
      else s.setV x (BitVec.ofNat 8 k.val))

/-- LD DT, Vx (R204). -/
def execLdDT (x : Reg) (s : State) : Host.Outcome State Fault Refusal :=
  .next { s with dt := s.getV x }

/-- LD ST, Vx (R205). -/
def execLdST (x : Reg) (s : State) : Host.Outcome State Fault Refusal :=
  .next { s with st := s.getV x }

end Sys2Proof.Machine
end

