-- ==== Sys2Proof/Machine/MemoryIndex.lean ====
section
/-! DEFINITION. 43_memory_index.md: the index register, decimal digits, register dump and load. -/

namespace Sys2Proof.Machine

/-- LD I, addr (R170). -/
def execLdI (nnn : BitVec 12) (s : State) : Host.Outcome State Fault Refusal :=
  .next { s with idx := addrOperand nnn }

/-- ADD I, Vx (R171): modulo 2^16, no flag, no check. -/
def execAddI (x : Reg) (s : State) : Host.Outcome State Fault Refusal :=
  .next { s with idx := s.idx + wordOfByte (s.getV x) }

/-- LD F, Vx (R172). -/
def execLdF (x : Reg) (s : State) : Host.Outcome State Fault Refusal :=
  .next { s with idx := glyphAddr (s.getV x) }

/-- The three stores of LD B, Vx, in order (R173). -/
def State.storeDigits (s : State) (b : Byte) : State :=
  ((s.writeByte (s.addr 0) (hundreds b)).writeByte (s.addr 1) (tens b)).writeByte (s.addr 2) (ones b)

/-- LD B, Vx (R173): I is unchanged. -/
def execLdB (x : Reg) (s : State) : Host.Outcome State Fault Refusal :=
  s.accessing (writeCheck s.params.reservedWrite) (s.addrs 3) (s.storeDigits (s.getV x))

/-- `MemWrite(I + k, 1, V[k])` for k = 0 .. n - 1 (R174). -/
def State.storeRegs : Nat → State → State
  | 0, s => s
  | n + 1, s => ((State.storeRegs n s).writeByte (s.addr n) (s.getV (Fin.ofNat 16 n)))

/-- `V[k] <- MemRead(I + k, 1)` for k = 0 .. n - 1 (R175). -/
def State.loadRegs : Nat → State → State
  | 0, s => s
  | n + 1, s => ((State.loadRegs n s).setV (Fin.ofNat 16 n) (s.readByte (s.addr n)))

/-- The post-condition of FX55 and FX65: the absolute value `I <- X + 1` (R174, R175). -/
def State.setIdxPast (s : State) (x : Reg) : State := { s with idx := BitVec.ofNat 16 (x.val + 1) }

/-- LD [I], Vx (R174). -/
def execDump (x : Reg) (s : State) : Host.Outcome State Fault Refusal :=
  s.accessing (writeCheck s.params.reservedWrite) (s.addrs (x.val + 1)) ((s.storeRegs (x.val + 1)).setIdxPast x)

/-- LD Vx, [I] (R175). -/
def execLoad (x : Reg) (s : State) : Host.Outcome State Fault Refusal :=
  s.accessing readCheck (s.addrs (x.val + 1)) ((s.loadRegs (x.val + 1)).setIdxPast x)

end Sys2Proof.Machine
end

