-- ==== Sys2Proof/Machine/Cycle.lean ====
section
/-! DEFINITION. The cycle engine of 40_cycle_engine.md: fetch, advance, decode, execute (R100 to R108). -/

namespace Sys2Proof.Machine

/-- The last address an instruction can be fetched from: its second byte is the last of memory (R26, R107). -/
def lastFetch : Nat := 4094

/-- The two bytes at `pc` and `pc + 1` (R100). -/
def State.fetchBytes (s : State) : List Byte := [s.readByte s.pc.toNat, s.readByte (s.pc.toNat + 1)]

/-- The word at `pc`, big-endian (R57, R100). -/
def State.fetchWord (s : State) : Word := joinBytes (s.readByte s.pc.toNat) (s.readByte (s.pc.toNat + 1))

/-- The state after fetch and advance: OPCODE latched, `pc` advanced by 2 (R100, R101). -/
def State.fetched (s : State) : State := { s with opcode := s.fetchWord, pc := s.pc + 2 }

/-- A fetch beyond memory: neither OPCODE nor `pc` is written (R107). -/
def State.fetchFault (s : State) : State :=
  s.takeFault { kind := .memOutOfRange, pc := s.pc, opcode := none, info := s.pc.toNat }

/-- An unknown opcode, after the fetch: DIAG gets its address and word, nothing else changes (R104). -/
def State.reportUnknown (s : State) : State :=
  { s with diag := s.diag ++ [{ pc := s.instrAddr, opcode := s.opcode }] }

/-- The whole cycle (R108). -/
def cycle (s : State) : Host.Outcome State Fault Refusal :=
  if s.pc.toNat > lastFetch then .next s.fetchFault
  else
    match decode s.fetchBytes with
    | .instr i _ => exec i s.fetched
    | .rejected _ => .next s.fetched.reportUnknown

/-- A word stored where the next fetch reads it, high byte first (R57); where no fetch is possible, nothing is stored. -/
def State.placeWord (s : State) (w : Word) : State :=
  if s.pc.toNat > lastFetch then s
  else (s.writeByte s.pc.toNat (highByte w)).writeByte (s.pc.toNat + 1) (lowByte w)

end Sys2Proof.Machine
end

