-- ==== Sys2Proof/Machine/Scheduler.lean ====
section
/-! DEFINITION. The scheduler's activities (60_exceptions.md R230 to R239), initialisation (70_reset_and_hazards.md R261)
and the core's outputs (R240). -/

namespace Sys2Proof.Machine

/-! ## Activities other than the CPU -/

/-- One counter's tick: down by 1, never below 0 (R230, R231). -/
def tickDown (b : Byte) : Byte := if b = 0 then 0 else b - 1

/-- Timer tick (R231): both counters, independently. -/
def State.timerTick (s : State) : State := { s with dt := tickDown s.dt, st := tickDown s.st }

/-- Redraw tick (R233): reads FB and changes no state of the core; a Renderer failure stops the run and is reported to the
caller (R239). -/
def State.redrawTick (failed : Bool) (s : State) : State :=
  if failed then { s with run := .stopped, report := some .rendererFailure } else s

/-- Input refresh (R234, R235): all of KEY is replaced by the snapshot, and a quit flag stops the machine [log 7]. -/
def State.inputRefresh (snapshot : Keypad) (quit : Bool) (s : State) : State :=
  { s with key := snapshot, run := if quit then .stopped else s.run }

/-- Input failure: as a quit, with no snapshot (R239) [log 7]. DESIGN CHOICE [log 31]: it is a normal end without a report,
as R239 and R265 have it, against 93_implementation_defined.md U22 ("the run ends abnormally at Stopped"). -/
def State.inputFailed (s : State) : State := { s with run := .stopped }

/-! ## Which activity comes next -/

/-- The activity that comes next: the one the host has fixed, else a free choice (R237) [log 6]. -/
def Agenda.next (g : Agenda) : Activity :=
  match g.listed with
  | [] => Config.schedule g.drawn
  | act :: _ => act

/-- The agenda after that activity. -/
def Agenda.tail (g : Agenda) : Agenda :=
  match g.listed with
  | [] => { g with drawn := g.drawn + 1 }
  | _ :: rest => { g with listed := rest }

/-- An activity put before all others. -/
def Agenda.push (g : Agenda) (act : Activity) : Agenda := { g with listed := act :: g.listed }

/-- The activity the scheduler selects (R236, R237). -/
def State.nextActivity (s : State) : Activity := s.agenda.next

/-- The selected activity has been taken from the agenda. -/
def State.dequeued (s : State) : State := { s with agenda := s.agenda.tail }

/-- One activity, run to its end on the one Machine State (R236). -/
def runActivity (act : Activity) (s : State) : Host.Outcome State Fault Refusal :=
  match act with
  | .cpu => cycle s
  | .timer => .next s.timerTick
  | .redraw failed => .next (s.redrawTick failed)
  | .input snapshot quit => .next (s.inputRefresh snapshot quit)
  | .inputFailure => .next s.inputFailed

/-! ## Initialisation -/

/-- Steps 1 and 2 of R261: every field at RESET_FILL (`pc` is written later, in step 5) and the font copied. The model's
own fields (schedule, oracle counter, parameters) are the host's and stay; the image has been taken [log 24]. -/
def State.cleared (s : State) : State :=
  { State.reset with
    pc := 0
    run := .idle
    agenda := s.agenda
    draws := s.draws
    params := s.params }

/-- Steps 3 to 6 of R261, with the size check of R262. -/
def State.initialise (rom : RomImage) (s : State) : State :=
  match rom with
  | .unreadable => { s.cleared with run := .stopped, report := some .loadError }
  | .image bytes =>
    if bytes.length > maxRomLength then { s.cleared with run := .stopped, report := some .loadError }
    else
      { s.cleared with
        mem := s.cleared.mem.writeAll programBase bytes
        pc := BitVec.ofNat 16 programBase
        run := .running }

/-- An Idle machine initialises itself when its loader has handed an image over (R260, R261). -/
def idleStep (s : State) : Host.Outcome State Fault Refusal :=
  match s.loader with
  | some rom => .next (s.initialise rom)
  | none => .fault .awaitingRom

/-! ## Outputs (R240) -/

/-- `tone`: on while ST is not 0 (R232). -/
def State.tone (s : State) : Bool := s.st != 0

/-- `frame_buffer`: what the Renderer is given if the next step is a redraw tick (R233). -/
def State.rendererInput (s : State) : Option FrameBuffer :=
  match s.run, s.nextActivity with
  | .running, .redraw _ => some s.fb
  | _, _ => none

end Sys2Proof.Machine
end

