-- ==== Sys2Proof/Machine/Step.lean ====
section
/-! DEFINITION. One step of the machine: initialisation in Idle, one scheduled activity in Running, nothing in Stopped
(70_reset_and_hazards.md R260, 60_exceptions.md R236). -/

namespace Sys2Proof.Machine

/-- One step. Each activity is atomic, and the state it leaves is the next state (R105, R236). -/
def step (s : State) : Host.Outcome State Fault Refusal :=
  match s.run with
  | .idle => idleStep s
  | .running => runActivity s.nextActivity s.dequeued
  | .stopped => .fault .stopped

/-- `s` with an instruction word stored at `pc`, running, and the CPU selected next: the very next step fetches and runs
it. It stands for the load of a program from outside the machine (R261) [log 4]. -/
def State.withFetchWord (s : State) (nbits w : Nat) : State :=
  { s.placeWord (BitVec.ofNat 16 (w % 2 ^ nbits)) with run := .running, agenda := s.agenda.push .cpu }

end Sys2Proof.Machine
end

