-- ==== Sys2Proof/Safety.lean ====
section
/-! DEFINITION. The terms the statements are made in: which parts of the state are unchanged, the invariants of the
machine, and the two ends of a run (70_reset_and_hazards.md R265). -/

namespace Sys2Proof.Machine

/-! ## Frames -/

/-- The parts of State, one per field. -/
inductive Part where
  | v | pc | idx | sp | stack | dt | st | key | fb | opcode | mem | run | fault | diag | report | loader | agenda | draws
  | params
  deriving DecidableEq, Repr

/-- The part holds in `t` what it held in `s`; memory is compared by reading every address. -/
def Part.same (s t : State) : Part → Prop
  | .v => ∀ r, t.getV r = s.getV r
  | .pc => t.pc = s.pc
  | .idx => t.idx = s.idx
  | .sp => t.sp = s.sp
  | .stack => t.stack = s.stack
  | .dt => t.dt = s.dt
  | .st => t.st = s.st
  | .key => t.key = s.key
  | .fb => ∀ y x, t.pixel y x = s.pixel y x
  | .opcode => t.opcode = s.opcode
  | .mem => ∀ a, t.readByte a = s.readByte a
  | .run => t.run = s.run
  | .fault => t.fault = s.fault
  | .diag => t.diag = s.diag
  | .report => t.report = s.report
  | .loader => t.loader = s.loader
  | .agenda => t.agenda = s.agenda
  | .draws => t.draws = s.draws
  | .params => t.params = s.params

/-- Nothing outside the named parts changed from `s` to `t`. -/
def Frame (changed : List Part) (s t : State) : Prop := ∀ p, p ∉ changed → p.same s t

/-- No register outside the named ones changed. -/
def RegsExcept (changed : List Reg) (s t : State) : Prop := ∀ r, r ∉ changed → t.getV r = s.getV r

/-- No byte of memory outside `a .. a + n - 1` changed. -/
def MemExcept (a n : Nat) (s t : State) : Prop := ∀ c, c < a ∨ a + n ≤ c → t.readByte c = s.readByte c

/-- The parts an instruction may write when it completes (10_state.md R20's table of writers, R23, R28, R30, R33, R34,
R38); a fault's entry writes FAULT and RUN and is said apart. -/
def writtenParts : Instr → List Part
  | .cls => [.fb]
  | .ret => [.sp, .pc]
  | .jp _ => [.pc]
  | .call _ => [.stack, .sp, .pc]
  | .seImm _ _ | .sneImm _ _ | .seReg _ _ | .sneReg _ _ => [.pc]
  | .ldImm _ _ | .addImm _ _ | .ldReg _ _ | .orReg _ _ | .andReg _ _ | .xorReg _ _ | .addReg _ _ | .sub _ _
  | .shr _ _ | .subn _ _ | .shl _ _ => [.v]
  | .ldI _ => [.idx]
  | .jpV0 _ => [.pc]
  | .rnd _ _ => [.v, .draws]
  | .drw _ _ _ => [.v, .fb]
  | .skp _ | .sknp _ => [.pc]
  | .ldVxDT _ => [.v]
  | .ldVxK _ => [.v, .pc, .draws]
  | .ldDT _ => [.dt]
  | .ldST _ => [.st]
  | .addI _ | .ldF _ => [.idx]
  | .ldB _ => [.mem]
  | .dump _ => [.mem, .idx]
  | .load _ => [.v, .idx]

/-- The registers an instruction may write: VX, V0 to VX for FX65, and VF where the instruction writes the flag (R23,
R38, and R144 to R146 under LOGIC_VF = reset). -/
def writtenRegs (p : Params) : Instr → List Reg
  | .ldImm x _ | .addImm x _ | .ldReg x _ | .rnd x _ | .ldVxDT x | .ldVxK x => [x]
  | .orReg x _ | .andReg x _ | .xorReg x _ => if p.logicVF = .reset then [x, VF] else [x]
  | .addReg x _ | .sub x _ | .shr x _ | .subn x _ | .shl x _ => [x, VF]
  | .drw _ _ _ => [VF]
  | .load x => (List.finRange 16).filter fun r => r ≤ x
  | .cls | .ret | .jp _ | .call _ | .seImm _ _ | .sneImm _ _ | .seReg _ _ | .sneReg _ _ | .ldI _ | .jpV0 _ | .skp _
  | .sknp _ | .ldDT _ | .ldST _ | .addI _ | .ldF _ | .ldB _ | .dump _ => []

/-! ## Encodings and sprites -/

/-- Every word that matches a row of the opcode table is read as this instruction (30_encoding.md R77). -/
def DecodesAs (key mask : Word) (instr : Word → Instr) : Prop :=
  ∀ op : Word, op &&& mask = key → decodeWord op = some (instr op)

/-- The sprite of `n` rows at I, drawn at (`vx`, `vy`), has a set bit over the cell in row `py`, column `px` (R191). -/
def SpriteCovers (s : State) (vx vy : Byte) (n : Nat) (py : Fin 32) (px : Fin 64) : Prop :=
  ∃ r c, r < n ∧ c < 8 ∧ py.val = (vy.toNat + r) % 32 ∧ px.val = (vx.toNat + c) % 64 ∧
    (s.readByte (s.idx.toNat + r)).getLsbD (7 - c) = true

/-- The coordinate that DRW takes from a register: under `after_vf_reset` VF reads as 0 (R191, D9). -/
def drawCoord (s : State) (r : Reg) : Byte :=
  if s.params.drawCoordRead = .afterVFReset ∧ r = VF then 0 else s.getV r

/-! ## Faults -/

/-- `t` is `s` after a fault with this record: FAULT and RUN as R222 says, and nothing else written (R223). -/
def FaultTaken (s t : State) (r : FaultRecord) : Prop :=
  t.run = .stopped ∧ t.fault = s.fault.or (some r) ∧ Frame [.run, .fault] s t

/-- The record of a fault raised by the instruction that `s` is executing (R106). -/
def recordOf (s : State) (kind : FaultKind) (info : Nat) : FaultRecord :=
  { kind := kind, pc := s.pc - 2, opcode := some s.opcode, info := info }

/-! ## Invariants -/

/-- Memory keeps its canonical form. -/
def MemoryCanonical (s : State) : Prop := s.mem.wf = true

/-- Every value `pc` can take is at most 0xFFF + 0xFF, and a return address at most 4096 (R26, R30). -/
def PcBounded (s : State) : Prop := s.pc.toNat ≤ 0x10FE ∧ ∀ j : Fin 16, s.stack[j].toNat ≤ 4096

/-- A recorded fault or a reported error is found only on a stopped machine (R222, R226, R239). -/
def FaultsStop (s : State) : Prop := (s.fault.isSome ∨ s.report.isSome) → s.run = .stopped

/-! ## Runs and fairness (60_exceptions.md R236, R237) -/

/-- The four activities of the scheduler, whatever the host hands them. -/
inductive ActivityKind where
  | cpu
  | timer
  | redraw
  | input
  deriving DecidableEq, Repr

/-- Which of the four an activity is; a refresh that fails is an input refresh. -/
def activityKind : Activity → ActivityKind
  | .cpu => .cpu
  | .timer => .timer
  | .redraw _ => .redraw
  | .input _ _ => .input
  | .inputFailure => .input

/-- An infinite run: `step` at every point, and between two steps the host may fix anew what comes next. Where it leaves
the agenda as the step left it, the run is that of `step` alone. -/
def IsRun (r : Nat → State) : Prop :=
  ∀ n, ∃ t listed, step (r n) = .next t ∧ r (n + 1) = { t with agenda := { t.agenda with listed := listed } }

/-- Weak fairness: each activity is taken infinitely often. In an infinite run the machine is Running from the first or
second state on, where all four are enabled, so each of them "stays enabled" (R237). -/
def WeaklyFair (r : Nat → State) : Prop := ∀ kind n, ∃ m, n ≤ m ∧ activityKind (r m).nextActivity = kind

/-! ## Ends of a run -/

/-- Ended by quit or Input failure (R265 a). That an Input failure is a normal end is a DESIGN CHOICE against U22
[log 31]. -/
def NormalEnd (s : State) : Prop := s.run = .stopped ∧ s.fault = none ∧ s.report = none

/-- Ended by a fault, a load error or a Renderer failure (R265 a). -/
def AbnormalEnd (s : State) : Prop := s.run = .stopped ∧ (s.fault.isSome ∨ s.report.isSome)

/-- Halted at `a`: Running at a JP to its own address (R265 b). The word at `a` must be there to fetch, so `a` is at most
4094 (R26). -/
def HaltedAt (a : BitVec 12) (s : State) : Prop :=
  s.run = .running ∧ a.toNat ≤ 4094 ∧ s.pc.toNat = a.toNat ∧
    s.readByte a.toNat ++ s.readByte (a.toNat + 1) = 0x1#4 ++ a

end Sys2Proof.Machine
end

