-- ==== Sys2Proof/Certificates/Slice0/Obligations.lean ====
section
/-! DEFINITION. The statements for the provers. `exec` runs on the state after the fetch: `pc` is already the address after
the instruction. A statement over all states is also one over all values of the parameters of 00_scope.md R8, which are a
field of State [log 1]. -/

open Sys2Proof Sys2Proof.Machine

/-! ## Encoding -/

/-- Decoding what the encoder writes gives the instruction back, whatever bytes follow (R70, R71, R83). -/
def Obligations.DecodeAfterEncodeIsIdentity : Prop :=
  ∀ (i : Instr) (rest : List Byte), i.wellFormed = true → decode (encodeBytes i ++ rest) = .instr i rest

/-- The decoder yields only well-formed instructions, and encoding one gives the word back but for the bits the decoder
ignores, which assemble as zero (R78, R83). -/
def Obligations.EncodeAfterDecodeClearsIgnoredBits : Prop :=
  ∀ (op : Word) (i : Instr), decodeWord op = some i → i.wellFormed = true ∧ encode i = op &&& ~~~i.ignoredBits

/-- An instruction matches iff `OPCODE & M = K` for its own row of the opcode table, and no opcode matches two rows
(R77). -/
def Obligations.DecoderAgreesWithOpcodeTable : Prop :=
  (∀ (op : Word) (i : Instr), decodeWord op = some i → i.row ∈ opcodeTable) ∧
  ∀ (op : Word), ∀ r ∈ opcodeTable, op &&& r.mask = r.key ↔ ∃ i, decodeWord op = some i ∧ i.row = r

/-- The unknown-instruction space (R80). -/
def Obligations.UnknownOpcodeSpace : Prop :=
  ∀ op : Word, decodeWord op = none ↔
    (fieldF op = 0x0 ∧ fieldKK op ∉ [0xE0, 0xEE]) ∨
    (fieldF op = 0x8 ∧ fieldN op ∈ [0x8, 0x9, 0xA, 0xB, 0xC, 0xD, 0xF]) ∨
    (fieldF op = 0xE ∧ fieldKK op ∉ [0x9E, 0xA1]) ∨
    (fieldF op = 0xF ∧ fieldKK op ∉ [0x07, 0x0A, 0x15, 0x18, 0x1E, 0x29, 0x33, 0x55, 0x65])

/-- Words of the spec's vectors (95_test_vectors.md 2.1; 0x1234 of 2.2, 0xD125 of 2.6), as the bytes that memory holds. -/
def Obligations.SpecWordsDecode : Prop :=
  decode [0x01, 0xE0] = .instr .cls [] ∧
  decode [0x0F, 0xEE] = .instr .ret [] ∧
  decode [0x12, 0x34] = .instr (.jp 0x234) [] ∧
  decode [0x51, 0x21] = .instr (.seReg 1 2) [] ∧
  decode [0x9A, 0xB7] = .instr (.sneReg 10 11) [] ∧
  decode [0x81, 0x2E] = .instr (.shl 1 2) [] ∧
  decode [0xD1, 0x25] = .instr (.drw 1 2 5) [] ∧
  decode [0xE1, 0xA1] = .instr (.sknp 1) [] ∧
  decode [0xF1, 0x65] = .instr (.load 1) [] ∧
  decode [0x81, 0x28] = .rejected (.unknownOpcode 0x8128)

/-! ## The cycle -/

/-- When the CPU is selected and the bytes at `pc` decode to `i`, the step is `i`'s meaning on the state whose OPCODE is
the big-endian word, whose `pc` has advanced by 2, and whose agenda has given up the CPU's turn (R57, R100 to R103). That
the agenda selects the activity is the model's form of the schedule [log 6]. -/
def Obligations.StepRunsTheDecodedInstruction : Prop :=
  ∀ (s : State) (i : Instr), s.run = .running → s.nextActivity = .cpu → s.pc.toNat ≤ 4094 →
    decode [s.readByte s.pc.toNat, s.readByte (s.pc.toNat + 1)] = .instr i [] →
    step s = exec i { s with
      agenda := s.agenda.tail
      opcode := s.readByte s.pc.toNat ++ s.readByte (s.pc.toNat + 1)
      pc := s.pc + 2 }

/-- A fetch above 4094 writes neither OPCODE nor `pc`; it records MemOutOfRange with no opcode and stops the machine
(R107, the spec's decision D2). -/
def Obligations.FetchBeyondMemoryFaults : Prop :=
  ∀ s : State, s.run = .running → s.nextActivity = .cpu → 4094 < s.pc.toNat →
    ∃ t, step s = .next t ∧ t.run = .stopped ∧
      t.fault = s.fault.or (some { kind := .memOutOfRange, pc := s.pc, opcode := none, info := s.pc.toNat }) ∧
      t.agenda = s.agenda.tail ∧ Frame [.run, .fault, .agenda] s t

/-- An unknown opcode is reported in DIAG with its own address, and nothing else happens but the fetch's advance (R104;
the record's form is the spec's decision D14). -/
def Obligations.UnknownOpcodeIsReportedAndSkipped : Prop :=
  ∀ s : State, s.run = .running → s.nextActivity = .cpu → s.pc.toNat ≤ 4094 →
    decodeWord (s.readByte s.pc.toNat ++ s.readByte (s.pc.toNat + 1)) = none →
    ∃ t, step s = .next t ∧ t.pc = s.pc + 2 ∧
      t.opcode = s.readByte s.pc.toNat ++ s.readByte (s.pc.toNat + 1) ∧
      t.diag = s.diag ++ [{ pc := s.pc, opcode := s.readByte s.pc.toNat ++ s.readByte (s.pc.toNat + 1) }] ∧
      t.agenda = s.agenda.tail ∧ Frame [.pc, .opcode, .diag, .agenda] s t

/-! ## Control flow -/

/-- JP addr (R122). -/
def Obligations.JumpSetsPcToAddress : Prop :=
  (∀ (nnn : BitVec 12) (s : State),
    ∃ t, exec (.jp nnn) s = .next t ∧ t.pc.toNat = nnn.toNat ∧ Frame [.pc] s t) ∧
  DecodesAs 0x1000 0xF000 fun op => .jp (fieldNNN op)

/-- JP V0, addr (R128): the sum is not reduced to 12 bits (the spec's decision D2). -/
def Obligations.JumpWithOffsetAddsV0 : Prop :=
  ∀ (nnn : BitVec 12) (s : State),
    ∃ t, exec (.jpV0 nnn) s = .next t ∧ t.pc.toNat = (s.getV 0).toNat + nnn.toNat ∧ Frame [.pc] s t

/-- CALL addr with room on the stack (R123). -/
def Obligations.CallPushesReturnAddress : Prop :=
  ∀ (nnn : BitVec 12) (s : State), s.sp.val < 16 →
    ∃ t, exec (.call nnn) s = .next t ∧ t.pc.toNat = nnn.toNat ∧ t.sp.val = s.sp.val + 1 ∧
      (∀ j : Fin 16, t.stack[j] = if j.val = s.sp.val then s.pc else s.stack[j]) ∧
      Frame [.pc, .sp, .stack] s t

/-- RET with an entry on the stack (R121); the entry stays in place (D28). -/
def Obligations.ReturnPopsReturnAddress : Prop :=
  ∀ (s : State) (j : Fin 16), s.sp.val = j.val + 1 →
    ∃ t, exec .ret s = .next t ∧ t.pc = s.stack[j] ∧ t.sp.val = j.val ∧ Frame [.pc, .sp] s t

/-- CALL on a full stack and RET on an empty one fault and write nothing (R121, R123; the spec's decision D4). -/
def Obligations.StackOverflowAndUnderflowFault : Prop :=
  (∀ (nnn : BitVec 12) (s : State), s.sp.val = 16 →
    ∃ t, exec (.call nnn) s = .next t ∧ FaultTaken s t (recordOf s .stackOverflow 16)) ∧
  ∀ s : State, s.sp.val = 0 → ∃ t, exec .ret s = .next t ∧ FaultTaken s t (recordOf s .stackUnderflow 0)

/-- A return undoes a call, whatever ran in between, if SP and the stack are again as the call left them. -/
def Obligations.ReturnAfterCallResumesCaller : Prop :=
  ∀ (nnn : BitVec 12) (s : State), s.sp.val < 16 →
    ∃ t, exec (.call nnn) s = .next t ∧
      ∀ t' : State, t'.sp = t.sp → t'.stack = t.stack →
        ∃ u, exec .ret t' = .next u ∧ u.pc = s.pc ∧ u.sp = s.sp

/-- SE and SNE, immediate and register (R124 to R127): 2 more if the condition holds, nothing else. -/
def Obligations.RegisterSkipsFollowTheirCondition : Prop :=
  (∀ (x y : Reg) (kk : Byte) (s : State),
    ∀ p ∈ [(Instr.seImm x kk, decide (s.getV x = kk)), (Instr.sneImm x kk, decide (s.getV x ≠ kk)),
      (Instr.seReg x y, decide (s.getV x = s.getV y)), (Instr.sneReg x y, decide (s.getV x ≠ s.getV y))],
    ∃ t, exec p.1 s = .next t ∧
      t.pc.toNat = (if p.2 = true then (s.pc.toNat + 2) % 65536 else s.pc.toNat) ∧ Frame [.pc] s t) ∧
  (DecodesAs 0x3000 0xF000 fun op => .seImm (fieldX op) (fieldKK op)) ∧
  (DecodesAs 0x4000 0xF000 fun op => .sneImm (fieldX op) (fieldKK op)) ∧
  (DecodesAs 0x5000 0xF000 fun op => .seReg (fieldX op) (fieldY op)) ∧
  DecodesAs 0x9000 0xF000 fun op => .sneReg (fieldX op) (fieldY op)

/-! ## Arithmetic and logic -/

/-- LD Vx, byte; LD Vx, Vy; LD Vx, DT (R141, R143, R202): VX gets the value, no other register changes. That LD Vx, Vy
leaves VF alone, under LOGIC_VF = reset too, is the spec's decision D8 [log 12]. -/
def Obligations.LoadsWriteOnlyVx : Prop :=
  (∀ (x y : Reg) (kk : Byte) (s : State),
    ∀ p ∈ [(Instr.ldImm x kk, kk), (Instr.ldReg x y, s.getV y), (Instr.ldVxDT x, s.dt)],
    ∃ t, exec p.1 s = .next t ∧ t.getV x = p.2 ∧ RegsExcept [x] s t ∧ Frame [.v] s t) ∧
  (DecodesAs 0x6000 0xF000 fun op => .ldImm (fieldX op) (fieldKK op)) ∧
  (DecodesAs 0x8000 0xF00F fun op => .ldReg (fieldX op) (fieldY op)) ∧
  DecodesAs 0xF007 0xF0FF fun op => .ldVxDT (fieldX op)

/-- A byte loaded into any register and copied to any register reads back there (R21's round trip, vector S1). -/
def Obligations.LoadedByteReadsBack : Prop :=
  ∀ (r q : Reg) (b : Byte) (s : State),
    ∃ t u, exec (.ldImm r b) s = .next t ∧ exec (.ldReg q r) t = .next u ∧ u.getV q = b ∧ u.getV r = b

/-- ADD Vx, byte (R142): wraps modulo 256 and sets no flag. -/
def Obligations.AddImmediateWrapsWithoutFlag : Prop :=
  (∀ (x : Reg) (kk : Byte) (s : State),
    ∃ t, exec (.addImm x kk) s = .next t ∧ (t.getV x).toNat = ((s.getV x).toNat + kk.toNat) % 256 ∧
      RegsExcept [x] s t ∧ Frame [.v] s t) ∧
  DecodesAs 0x7000 0xF000 fun op => .addImm (fieldX op) (fieldKK op)

/-- OR, AND, XOR (R144 to R146): bitwise; VF is reset only under LOGIC_VF = reset, after the result is written (the spec's
decision D8). -/
def Obligations.LogicInstructionsAreBitwise : Prop :=
  ∀ (x y : Reg) (s : State),
    ∀ p ∈ [(Instr.orReg x y, Bool.or), (Instr.andReg x y, Bool.and), (Instr.xorReg x y, Bool.xor)],
    ∃ t, exec p.1 s = .next t ∧
      (∀ j, j < 8 → (t.getV x).getLsbD j =
        if s.params.logicVF = .reset ∧ x = VF then false else p.2 ((s.getV x).getLsbD j) ((s.getV y).getLsbD j)) ∧
      (s.params.logicVF = .reset → t.getV VF = 0) ∧
      RegsExcept (if s.params.logicVF = .reset then [x, VF] else [x]) s t ∧ Frame [.v] s t

/-- ADD Vx, Vy (R147): the 16-bit sum's low byte and its carry, for every X and Y and under both orders of R140. -/
def Obligations.AddSetsCarry : Prop :=
  (∀ (x y : Reg) (s : State),
    let sum := (s.getV x).toNat + (s.getV y).toNat
    let carry := if sum > 255 then 1 else 0
    ∃ t, exec (.addReg x y) s = .next t ∧
      (x ≠ VF → (t.getV x).toNat = sum % 256 ∧ (t.getV VF).toNat = carry) ∧
      (x = VF → s.params.flagOrder = .sequential → (t.getV VF).toNat = sum % 256) ∧
      (x = VF → s.params.flagOrder = .flagLast → (t.getV VF).toNat = carry) ∧
      RegsExcept [x, VF] s t ∧ Frame [.v] s t) ∧
  DecodesAs 0x8004 0xF00F fun op => .addReg (fieldX op) (fieldY op)

/-- SUB Vx, Vy (R148): VF is the strict comparison before the subtraction; under `sequential` an operand that is VF is the
flag just written. -/
def Obligations.SubtractSetsNotBorrow : Prop :=
  (∀ (x y : Reg) (s : State),
    let a := (s.getV x).toNat
    let b := (s.getV y).toNat
    let flag := if a > b then 1 else 0
    ∃ t, exec (.sub x y) s = .next t ∧
      (s.params.flagOrder = .sequential →
        (t.getV x).toNat = ((if x = VF then flag else a) + 256 - (if y = VF then flag else b)) % 256 ∧
        (x ≠ VF → (t.getV VF).toNat = flag)) ∧
      (s.params.flagOrder = .flagLast →
        (t.getV VF).toNat = flag ∧ (x ≠ VF → (t.getV x).toNat = (a + 256 - b) % 256)) ∧
      RegsExcept [x, VF] s t ∧ Frame [.v] s t) ∧
  DecodesAs 0x8005 0xF00F fun op => .sub (fieldX op) (fieldY op)

/-- SUBN Vx, Vy (R150): as SUB with the operands exchanged. -/
def Obligations.SubtractReversedSetsNotBorrow : Prop :=
  (∀ (x y : Reg) (s : State),
    let a := (s.getV x).toNat
    let b := (s.getV y).toNat
    let flag := if b > a then 1 else 0
    ∃ t, exec (.subn x y) s = .next t ∧
      (s.params.flagOrder = .sequential →
        (t.getV x).toNat = ((if y = VF then flag else b) + 256 - (if x = VF then flag else a)) % 256 ∧
        (x ≠ VF → (t.getV VF).toNat = flag)) ∧
      (s.params.flagOrder = .flagLast →
        (t.getV VF).toNat = flag ∧ (x ≠ VF → (t.getV x).toNat = (b + 256 - a) % 256)) ∧
      RegsExcept [x, VF] s t ∧ Frame [.v] s t) ∧
  DecodesAs 0x8007 0xF00F fun op => .subn (fieldX op) (fieldY op)

/-- SHR and SHL (R149, R151): VX moves by one bit, VF is the bit shifted out, Vy plays no part. -/
def Obligations.ShiftsMoveOneBitIntoVF : Prop :=
  (∀ (x y : Reg) (s : State),
    let a := (s.getV x).toNat
    (∃ t, exec (.shr x y) s = .next t ∧
      (s.params.flagOrder = .sequential →
        (t.getV x).toNat = (if x = VF then a % 2 else a) / 2 ∧ (x ≠ VF → (t.getV VF).toNat = a % 2)) ∧
      (s.params.flagOrder = .flagLast →
        (t.getV VF).toNat = a % 2 ∧ (x ≠ VF → (t.getV x).toNat = a / 2)) ∧
      RegsExcept [x, VF] s t ∧ Frame [.v] s t) ∧
    ∃ t, exec (.shl x y) s = .next t ∧
      (s.params.flagOrder = .sequential →
        (t.getV x).toNat = 2 * (if x = VF then a / 128 else a) % 256 ∧ (x ≠ VF → (t.getV VF).toNat = a / 128)) ∧
      (s.params.flagOrder = .flagLast →
        (t.getV VF).toNat = a / 128 ∧ (x ≠ VF → (t.getV x).toNat = 2 * a % 256)) ∧
      RegsExcept [x, VF] s t ∧ Frame [.v] s t) ∧
  (DecodesAs 0x8006 0xF00F fun op => .shr (fieldX op) (fieldY op)) ∧
  DecodesAs 0x800E 0xF00F fun op => .shl (fieldX op) (fieldY op)

/-- Where neither X nor Y is F, FLAG_ORDER makes no difference to any register (R140, the spec's decision D7). -/
def Obligations.FlagOrderMattersOnlyAtVF : Prop :=
  ∀ (x y : Reg) (s : State) (o o' : FlagOrder), x ≠ VF → y ≠ VF →
    ∀ i ∈ [Instr.addReg x y, .sub x y, .shr x y, .subn x y, .shl x y],
    ∃ t u, exec i { s with params := { s.params with flagOrder := o } } = .next t ∧
      exec i { s with params := { s.params with flagOrder := o' } } = .next u ∧ ∀ r, t.getV r = u.getV r

/-- RND Vx, byte (R152): the drawn byte, a free value, under the mask; each draw is counted in the model's own counter
[log 9]. The statement holds whatever the byte is. -/
def Obligations.RandomByteIsMasked : Prop :=
  ∀ (x : Reg) (kk : Byte) (s : State),
    ∃ t, exec (.rnd x kk) s = .next t ∧ t.getV x = Config.rngByte s.draws &&& kk ∧ t.draws = s.draws + 1 ∧
      (kk = 0 → t.getV x = 0) ∧ RegsExcept [x] s t ∧ Frame [.v, .draws] s t

/-! ## Index register and memory -/

/-- LD I, addr and LD F, Vx (R170, R172): the digit of LD F is not masked. -/
def Obligations.IndexIsSetToAddressOrGlyph : Prop :=
  (∀ (nnn : BitVec 12) (x : Reg) (s : State),
    (∃ t, exec (.ldI nnn) s = .next t ∧ t.idx.toNat = nnn.toNat ∧ Frame [.idx] s t) ∧
    ∃ t, exec (.ldF x) s = .next t ∧ t.idx.toNat = 0x050 + 5 * (s.getV x).toNat ∧ Frame [.idx] s t) ∧
  (DecodesAs 0xA000 0xF000 fun op => .ldI (fieldNNN op)) ∧
  DecodesAs 0xF029 0xF0FF fun op => .ldF (fieldX op)

/-- ADD I, Vx (R171): modulo 2^16, and no flag (the spec's decision D6). -/
def Obligations.AddToIndexWrapsWithoutFlag : Prop :=
  ∀ (x : Reg) (s : State),
    ∃ t, exec (.addI x) s = .next t ∧ t.idx.toNat = (s.idx.toNat + (s.getV x).toNat) % 65536 ∧ Frame [.idx] s t

/-- LD B, Vx (R173): three decimal digits that stand for VX, in memory at I, I + 1, I + 2; I itself is unchanged (D27), and
no other byte of memory is touched. The hypotheses are the rule's own: the addresses exist and may be stored to. -/
def Obligations.DecimalDigitsAreStored : Prop :=
  ∀ (x : Reg) (s : State), MemoryCanonical s → s.idx.toNat + 2 ≤ 0xFFF →
    (s.params.reservedWrite = .write ∨ 0x1FF < s.idx.toNat) →
    ∃ t, exec (.ldB x) s = .next t ∧
      100 * (t.readByte s.idx.toNat).toNat + 10 * (t.readByte (s.idx.toNat + 1)).toNat
        + (t.readByte (s.idx.toNat + 2)).toNat = (s.getV x).toNat ∧
      (t.readByte s.idx.toNat).toNat ≤ 2 ∧ (t.readByte (s.idx.toNat + 1)).toNat ≤ 9 ∧
      (t.readByte (s.idx.toNat + 2)).toNat ≤ 9 ∧
      MemExcept s.idx.toNat 3 s t ∧ Frame [.mem] s t

/-- LD [I], Vx (R174): V0..VX at I..I + X, then the absolute `I <- X + 1`; or, where an address fails its check, the fault of
the first failing address and nothing written. -/
def Obligations.RegisterDumpStoresRange : Prop :=
  (∀ (x : Reg) (s : State),
    (MemoryCanonical s → s.idx.toNat + x.val ≤ 0xFFF → (s.params.reservedWrite = .write ∨ 0x1FF < s.idx.toNat) →
      ∃ t, exec (.dump x) s = .next t ∧ (∀ k : Reg, k ≤ x → t.readByte (s.idx.toNat + k.val) = s.getV k) ∧
        t.idx.toNat = x.val + 1 ∧ MemExcept s.idx.toNat (x.val + 1) s t ∧ Frame [.mem, .idx] s t) ∧
    (0xFFF < s.idx.toNat + x.val →
      ∃ t, exec (.dump x) s = .next t ∧ FaultTaken s t (recordOf s .memOutOfRange (max s.idx.toNat 0x1000))) ∧
    (s.params.reservedWrite = .fault → s.idx.toNat ≤ 0x1FF →
      ∃ t, exec (.dump x) s = .next t ∧ FaultTaken s t (recordOf s .reservedWrite s.idx.toNat))) ∧
  DecodesAs 0xF055 0xF0FF fun op => .dump (fieldX op)

/-- LD Vx, [I] (R175): V0..VX from I..I + X, then the absolute `I <- X + 1`; reads of the reserved region are allowed; or the
fault of the first address beyond memory and nothing written. -/
def Obligations.RegisterLoadReadsRange : Prop :=
  (∀ (x : Reg) (s : State),
    (s.idx.toNat + x.val ≤ 0xFFF →
      ∃ t, exec (.load x) s = .next t ∧ (∀ k : Reg, k ≤ x → t.getV k = s.readByte (s.idx.toNat + k.val)) ∧
        (∀ k : Reg, x < k → t.getV k = s.getV k) ∧ t.idx.toNat = x.val + 1 ∧ Frame [.v, .idx] s t) ∧
    (0xFFF < s.idx.toNat + x.val →
      ∃ t, exec (.load x) s = .next t ∧ FaultTaken s t (recordOf s .memOutOfRange (max s.idx.toNat 0x1000)))) ∧
  DecodesAs 0xF065 0xF0FF fun op => .load (fieldX op)

/-- LD B and DRW on an address that fails its check: the fault of the first failing address, and no partial store or draw
(R53, R54, R56; the spec's decisions D2, D5, D20). -/
def Obligations.DigitAndSpriteAccessFaults : Prop :=
  (∀ (x : Reg) (s : State), 0xFFF < s.idx.toNat + 2 →
    ∃ t, exec (.ldB x) s = .next t ∧ FaultTaken s t (recordOf s .memOutOfRange (max s.idx.toNat 0x1000))) ∧
  (∀ (x : Reg) (s : State), s.params.reservedWrite = .fault → s.idx.toNat ≤ 0x1FF →
    ∃ t, exec (.ldB x) s = .next t ∧ FaultTaken s t (recordOf s .reservedWrite s.idx.toNat)) ∧
  ∀ (x y : Reg) (n : Nat) (s : State), 1 ≤ n → n ≤ 15 → 0xFFF < s.idx.toNat + (n - 1) →
    ∃ t, exec (.drw x y n) s = .next t ∧ FaultTaken s t (recordOf s .memOutOfRange (max s.idx.toNat 0x1000))

/-- What FX55 stored, FX65 loads back, into whatever registers have become meanwhile, once I is set back. -/
def Obligations.LoadAfterDumpRestoresRegisters : Prop :=
  ∀ (x : Reg) (s : State) (v' : Vector Byte 16), MemoryCanonical s → s.idx.toNat + x.val ≤ 0xFFF →
    (s.params.reservedWrite = .write ∨ 0x1FF < s.idx.toNat) →
    ∃ t u, exec (.dump x) s = .next t ∧ exec (.load x) { t with v := v', idx := s.idx } = .next u ∧
      (∀ k : Reg, k ≤ x → u.getV k = s.getV k) ∧ ∀ k : Reg, x < k → u.getV k = v'[k]

/-- A store is seen by the next fetch of its address: the word fetched where FX55 stored two registers is those registers,
the first in the high byte (R62, the spec's decision D18; R57). -/
def Obligations.StoredBytesAreFetched : Prop :=
  ∀ (x : Reg) (s : State) (k : Nat), MemoryCanonical s → s.idx.toNat + x.val ≤ 0xFFF →
    (s.params.reservedWrite = .write ∨ 0x1FF < s.idx.toNat) → k + 1 ≤ x.val →
    ∃ t, exec (.dump x) s = .next t ∧
      ∀ u : State, u.mem = t.mem → u.pc.toNat = s.idx.toNat + k →
        u.fetchWord = s.getV (Fin.ofNat 16 k) ++ s.getV (Fin.ofNat 16 (k + 1))

/-! ## Graphics -/

/-- CLS (R190). -/
def Obligations.ClearScreenClearsEveryCell : Prop :=
  (∀ s : State, ∃ t, exec .cls s = .next t ∧ (∀ y x, t.pixel y x = false) ∧ Frame [.fb] s t) ∧
  DecodesAs 0x00E0 0xF0FF fun _ => .cls

/-- DRW (R191): each cell under a set sprite bit is inverted and no other, VF is 1 if some such cell was lit and 0 if none
was; coordinates wrap on both axes, and a height of 0 draws nothing and reads no memory. DRAW_COORD_READ is the spec's
decision D9. -/
def Obligations.DrawInvertsCoveredCells : Prop :=
  ∀ (x y : Reg) (n : Nat) (s : State), n ≤ 15 → (n = 0 ∨ s.idx.toNat + (n - 1) ≤ 0xFFF) →
    ∃ t, exec (.drw x y n) s = .next t ∧
      (∀ py px, SpriteCovers s (drawCoord s x) (drawCoord s y) n py px → t.pixel py px = !s.pixel py px) ∧
      (∀ py px, ¬ SpriteCovers s (drawCoord s x) (drawCoord s y) n py px → t.pixel py px = s.pixel py px) ∧
      ((∃ py px, SpriteCovers s (drawCoord s x) (drawCoord s y) n py px ∧ s.pixel py px = true) → t.getV VF = 1) ∧
      ((∀ py px, SpriteCovers s (drawCoord s x) (drawCoord s y) n py px → s.pixel py px = false) → t.getV VF = 0) ∧
      RegsExcept [VF] s t ∧ Frame [.v, .fb] s t

/-- Drawing the same sprite twice at one place restores the frame buffer; on an empty one the second draw collides if the
sprite has a set bit (vector S6). Coordinates in VF are left out here: the first draw writes VF. -/
def Obligations.DrawTwiceRestoresFrameBuffer : Prop :=
  ∀ (x y : Reg) (n : Nat) (s : State), x ≠ VF → y ≠ VF → n ≤ 15 → (n = 0 ∨ s.idx.toNat + (n - 1) ≤ 0xFFF) →
    ∃ t u, exec (.drw x y n) s = .next t ∧ exec (.drw x y n) t = .next u ∧ (∀ py px, u.pixel py px = s.pixel py px) ∧
      ((∃ py px, SpriteCovers s (s.getV x) (s.getV y) n py px ∧ s.pixel py px = false) → u.getV VF = 1)

/-! ## Keypad and timers -/

/-- SKP and SKNP (R200, R201, R206): the key of VX, or of its low nibble where the policy allows it, decides the skip; an
index above 15 faults under the other policy (the spec's decision D10). -/
def Obligations.KeySkipsFollowKeypad : Prop :=
  ∀ (x : Reg) (s : State),
    (∀ k : Reg, k.val = (s.getV x).toNat % 16 → ((s.getV x).toNat ≤ 15 ∨ s.params.keyIndex = .lowNibble) →
      ∀ p ∈ [(Instr.skp x, s.key[k]), (Instr.sknp x, !s.key[k])],
      ∃ t, exec p.1 s = .next t ∧
        t.pc.toNat = (if p.2 = true then (s.pc.toNat + 2) % 65536 else s.pc.toNat) ∧ Frame [.pc] s t) ∧
    (15 < (s.getV x).toNat → s.params.keyIndex = .fault →
      ∀ i ∈ [Instr.skp x, .sknp x],
      ∃ t, exec i s = .next t ∧ FaultTaken s t (recordOf s .keyIndexOutOfRange (s.getV x).toNat))

/-- LD DT, Vx and LD ST, Vx (R204, R205); the tone follows ST (R232). -/
def Obligations.TimersAreSetFromVx : Prop :=
  (∀ (x : Reg) (s : State),
    (∃ t, exec (.ldDT x) s = .next t ∧ t.dt = s.getV x ∧ Frame [.dt] s t) ∧
    ∃ t, exec (.ldST x) s = .next t ∧ t.st = s.getV x ∧ t.tone = decide (s.getV x ≠ 0) ∧ Frame [.st] s t) ∧
  (DecodesAs 0xF015 0xF0FF fun op => .ldDT (fieldX op)) ∧
  DecodesAs 0xF018 0xF0FF fun op => .ldST (fieldX op)

/-- LD Vx, K (R203): with no key pressed only `pc` goes back to the instruction; else VX is the number of a pressed key,
whichever the tie-break takes (the spec's decision D11), and `pc` stays at the next instruction. -/
def Obligations.WaitForKeyStoresAPressedKey : Prop :=
  ∀ (x : Reg) (s : State),
    ((∀ k : Reg, s.key[k] = false) →
      ∃ t, exec (.ldVxK x) s = .next t ∧ t.pc.toNat = (s.pc.toNat + 65534) % 65536 ∧ Frame [.pc] s t) ∧
    ((∃ k : Reg, s.key[k] = true) →
      ∃ t, exec (.ldVxK x) s = .next t ∧ (∃ k : Reg, s.key[k] = true ∧ (t.getV x).toNat = k.val) ∧
        RegsExcept [x] s t ∧ Frame [.v, .draws] s t)

/-- LD Vx, K under the two determined tie-breaks (R203, D11): the lowest or the highest pressed key. -/
def Obligations.KeyTiebreakTakesLowestOrHighest : Prop :=
  ∀ (x : Reg) (s : State) (k : Reg), s.key[k] = true →
    (s.params.keyTiebreak = .lowest → (∀ j : Reg, s.key[j] = true → k ≤ j) →
      ∃ t, exec (.ldVxK x) s = .next t ∧ (t.getV x).toNat = k.val) ∧
    (s.params.keyTiebreak = .highest → (∀ j : Reg, s.key[j] = true → j ≤ k) →
      ∃ t, exec (.ldVxK x) s = .next t ∧ (t.getV x).toNat = k.val)

/-! ## The scheduler's other activities, initialisation, the end -/

/-- A timer tick (R231): each counter that is not 0 goes down by 1, and nothing else of the core changes. The natural
subtraction stops at 0, as the rule's condition does. The tone is on exactly while ST is not 0, in every state (R232). Where
the program no longer sets the timers, in a machine halted at an address, every weakly fair run brings both to 0 for good
(R237, R265 b; the spec's decisions D13, D19) [log 6]. -/
def Obligations.TimerTickCountsDownToZero : Prop :=
  (∀ s : State, s.run = .running → s.nextActivity = .timer →
    ∃ t, step s = .next t ∧ t.dt.toNat = s.dt.toNat - 1 ∧ t.st.toNat = s.st.toNat - 1 ∧
      t.tone = decide (1 < s.st.toNat) ∧ t.agenda = s.agenda.tail ∧ Frame [.dt, .st, .agenda] s t) ∧
  (∀ s : State, s.tone = true ↔ s.st ≠ 0) ∧
  ∀ (a : BitVec 12) (r : Nat → State), HaltedAt a (r 0) → IsRun r → WeaklyFair r →
    ∃ n, ∀ m, n ≤ m → (r m).dt = 0 ∧ (r m).st = 0 ∧ (r m).tone = false

/-- An input refresh replaces all of KEY by the snapshot, and a quit flag stops the machine (R234, R235); an input failure
stops it and leaves KEY (R239); both are normal ends (R265 a, the spec's decision D19). That KEY is replaced in the refresh
that quits, and left by one that fails, is the model's choice [log 7]; so is the normal end of a failure, where U22 says
otherwise [log 31]. -/
def Obligations.InputRefreshReplacesKeypad : Prop :=
  ∀ s : State, s.run = .running →
    (∀ (snapshot : Keypad) (quit : Bool), s.nextActivity = .input snapshot quit →
      ∃ t, step s = .next t ∧ (∀ k : Reg, t.key[k] = snapshot[k]) ∧
        (quit = true → t.run = .stopped ∧ (FaultsStop s → NormalEnd t)) ∧ (quit = false → t.run = .running) ∧
        t.agenda = s.agenda.tail ∧ Frame [.key, .run, .agenda] s t) ∧
    (s.nextActivity = .inputFailure →
      ∃ t, step s = .next t ∧ t.run = .stopped ∧ (FaultsStop s → NormalEnd t) ∧ t.agenda = s.agenda.tail ∧
        Frame [.run, .agenda] s t)

/-- A redraw tick hands FB to the Renderer and changes no state of the core (R233); a Renderer failure stops the run and is
reported, not as FAULT (R239), an abnormal end (R265 a). The field the report stands in is the model's own [log 8]. -/
def Obligations.RedrawChangesNothingOfTheCore : Prop :=
  ∀ (s : State) (failed : Bool), s.run = .running → s.nextActivity = .redraw failed →
    s.rendererInput = some s.fb ∧
    ∃ t, step s = .next t ∧ t.agenda = s.agenda.tail ∧
      (failed = false → Frame [.agenda] s t) ∧
      (failed = true → t.report = some .rendererFailure ∧ AbnormalEnd t ∧ Frame [.run, .report, .agenda] s t)

/-- The activities other than the CPU change only DT, ST, KEY and RUN, and the model's own agenda and report (R227, the
spec's decision D15). -/
def Obligations.OnlyTheCpuTouchesTheProgram : Prop :=
  ∀ s t : State, s.run = .running → s.nextActivity ≠ .cpu → step s = .next t →
    Frame [.dt, .st, .key, .run, .agenda, .report] s t

/-- From Idle, a ROM image of at most 3584 bytes is copied to 0x200, the font stands at 0x050, every other byte and every
field is at its reset value, and the machine is Running at 0x200 (R261, R262; the spec's decisions D1, D17, D21) [log 2,
3, 24]. -/
def Obligations.InitialisationLoadsTheRom : Prop :=
  ∀ (s : State) (rom : List Byte), s.run = .idle → s.loader = some (.image rom) → rom.length ≤ 3584 →
    ∃ t, step s = .next t ∧ t.run = .running ∧ t.pc = 0x200 ∧
      (∀ i, i < rom.length → t.readByte (0x200 + i) = rom.getD i 0) ∧
      (∀ i, i < 80 → t.readByte (0x050 + i) = fontTable.getD i 0) ∧
      (∀ a, ¬ (0x050 ≤ a ∧ a < 0x0A0) → ¬ (0x200 ≤ a ∧ a < 0x200 + rom.length) → t.readByte a = 0) ∧
      (∀ r, t.getV r = 0) ∧ t.idx = 0 ∧ t.sp = 0 ∧ (∀ j : Fin 16, t.stack[j] = 0) ∧ t.dt = 0 ∧ t.st = 0 ∧
      (∀ k : Reg, t.key[k] = false) ∧ (∀ y x, t.pixel y x = false) ∧ t.opcode = 0 ∧
      t.fault = none ∧ t.diag = [] ∧ t.report = none ∧ Frame [.v, .pc, .idx, .sp, .stack, .dt, .st, .key, .fb, .opcode,
        .mem, .run, .fault, .diag, .report, .loader] s t

/-- An unreadable image, or one of more than 3584 bytes, is a load error: Idle to Stopped with no cycle run, no partial ROM
in memory, and no FAULT (R226, R262; the spec's decision D21) [log 24]. That no byte of it is there is said as zeros from
0x200 up, which is RESET_FILL = zero (D1) [log 2]; the report's field is the model's own [log 8]. -/
def Obligations.LoadErrorStopsBeforeRunning : Prop :=
  ∀ (s : State) (rom : RomImage), s.run = .idle → s.loader = some rom →
    (rom = .unreadable ∨ ∃ bytes, rom = .image bytes ∧ 3584 < bytes.length) →
    ∃ t, step s = .next t ∧ t.run = .stopped ∧ t.report = some .loadError ∧ t.fault = none ∧ AbnormalEnd t ∧
      ∀ a, 0x200 ≤ a → t.readByte a = 0

/-- A Stopped machine runs no activity, and an Idle one nothing before its loader hands an image over (R236, R247, R260).
That `step` then answers a stop is the model's form of it [log 5]. -/
def Obligations.NoActivityOutsideRunning : Prop :=
  ∀ s : State, (s.run = .stopped → step s = .fault .stopped) ∧
    (s.run = .idle → s.loader = none → step s = .fault .awaitingRom)

/-- The state after reset: `pc` and RUN as R40 and R264 say, the font at 0x050, and zero elsewhere, which is RESET_FILL =
zero (the spec's decision D1) [log 2, 3, 4]. -/
def Obligations.ResetStateIsRunningAtEntryPoint : Prop :=
  State.reset.pc = 0x200 ∧ State.reset.run = .running ∧ State.reset.fault = none ∧ State.reset.diag = [] ∧
  (∀ i, i < 80 → State.reset.readByte (0x050 + i) = fontTable.getD i 0) ∧
  (∀ a, ¬ (0x050 ≤ a ∧ a < 0x0A0) → State.reset.readByte a = 0) ∧
  (∀ r, State.reset.getV r = 0) ∧ State.reset.idx = 0 ∧ State.reset.sp = 0 ∧
  (∀ j : Fin 16, State.reset.stack[j] = 0) ∧ State.reset.dt = 0 ∧ State.reset.st = 0 ∧
  (∀ k : Reg, State.reset.key[k] = false) ∧ (∀ y x, State.reset.pixel y x = false) ∧ State.reset.opcode = 0

/-! ## Invariants and rules of the whole machine -/

/-- Every step keeps memory in its canonical form, which is the model's own [log 30]. -/
def Obligations.StepKeepsMemoryCanonical : Prop :=
  ∀ s t : State, MemoryCanonical s → step s = .next t → MemoryCanonical t

/-- Every step keeps `pc` at most 0x10FE and every stack entry at most 4096, so that `pc` arithmetic never wraps (R26,
R30). -/
def Obligations.StepKeepsPcBounded : Prop :=
  ∀ s t : State, PcBounded s → step s = .next t → PcBounded t

/-- A recorded fault or reported error is found only on a stopped machine, so that FAULT, once set, is never cleared:
no step leads on from it (R37, R222). -/
def Obligations.StepKeepsFaultsOnStoppedMachines : Prop :=
  ∀ s t : State, FaultsStop s → step s = .next t → FaultsStop t

/-- The three invariants hold after reset. The canonical form of memory is the model's own [log 30]; the stack entries that
bound the return addresses are the zeros of RESET_FILL = zero (the spec's decision D1) [log 2]. -/
def Obligations.ResetSatisfiesTheInvariants : Prop :=
  MemoryCanonical State.reset ∧ PcBounded State.reset ∧ FaultsStop State.reset

/-- Faults are precise, for every instruction: one that leaves Running has recorded a fault at its own address with its
opcode, and has written nothing else (R106, R222, R223; the spec's decisions D15, D20). -/
def Obligations.EveryFaultIsPrecise : Prop :=
  ∀ (i : Instr) (s t : State), s.run = .running → exec i s = .next t → t.run ≠ .running →
    ∃ kind info, kind ≠ .uninitRead ∧ FaultTaken s t (recordOf s kind info)

/-- Every instruction that completes writes only the parts and registers the spec gives it (10_state.md section 1's table of
writers; R23, R28, R30, R33, R38, R193), and of memory only the bytes it stores: three from I for FX33, X + 1 from I for FX55
(R55, R173, R174). -/
def Obligations.EveryInstructionWritesOnlyItsParts : Prop :=
  ∀ (i : Instr) (s t : State), s.run = .running → exec i s = .next t → t.run = .running →
    Frame (writtenParts i) s t ∧ RegsExcept (writtenRegs s.params i) s t ∧
    (∀ x, i = .ldB x → MemExcept (s.addr 0) 3 s t) ∧ ∀ x, i = .dump x → MemExcept (s.addr 0) (x.val + 1) s t

/-- Under RESERVED_WRITE_POLICY = fault no step of a running machine changes a byte below 0x200, the font among them
(20_memory.md R54, R64; the spec's decision D5). -/
def Obligations.ReservedRegionIsReadOnlyWhileRunning : Prop :=
  ∀ (s t : State) (a : Nat), s.run = .running → s.params.reservedWrite = .fault → step s = .next t → a ≤ 0x1FF →
    t.readByte a = s.readByte a

/-- No instruction is refused and none ends the model's run: each answers a next state in every state. -/
def Obligations.EveryInstructionAnswersANextState : Prop :=
  ∀ (i : Instr) (s : State), ∃ t, exec i s = .next t

/-- The lifecycle: a step leads out of Idle, never back into it, and from Stopped nowhere (R36, R260). -/
def Obligations.LifecycleNeverReturnsToIdle : Prop :=
  ∀ s t : State, step s = .next t → s.run ≠ .stopped ∧ t.run ≠ .idle

/-- Parameters are configuration: no step writes them (R41). -/
def Obligations.NoStepWritesParameters : Prop :=
  ∀ s t : State, step s = .next t → t.params = s.params

/-- While Running, a step appends at most one record to DIAG, and one only at an unknown opcode, after which the machine is
still Running (R37, R104, R225). -/
def Obligations.DiagnosticsAreAppendOnly : Prop :=
  ∀ s t : State, s.run = .running → step s = .next t →
    t.diag = s.diag ∨ (t.run = .running ∧ decodeWord s.fetchWord = none ∧
      t.diag = s.diag ++ [{ pc := s.pc, opcode := s.fetchWord }])

/-- From a halted state every step that does not end the run leaves it halted, with V, I, SP, the stack, memory and the
frame buffer final; a CPU cycle always is such a step (R265 b, the spec's decision D19). -/
def Obligations.HaltedMachineStaysHalted : Prop :=
  ∀ (a : BitVec 12) (s : State), HaltedAt a s →
    (∀ t, step s = .next t → t.run = .running → HaltedAt a t ∧ Frame [.opcode, .agenda, .dt, .st, .key] s t) ∧
    (s.nextActivity = .cpu → ∃ t, step s = .next t ∧ HaltedAt a t ∧ Frame [.opcode, .agenda] s t)
end

