-- ==== Sys2Proof/Laws/Decode.lean ====
section
/-! SUPPORT. The fields of a packed word, and the byte order. -/

namespace Sys2Proof

/-! ## Slices of an append -/

theorem extract_low {w v : Nat} (a : BitVec w) (b : BitVec v) : (a ++ b).extractLsb' 0 v = b := by
  apply BitVec.eq_of_getLsbD_eq
  intro i h
  simp [BitVec.getLsbD_append, h]

/-- A slice above the low part is a slice of the high part. -/
theorem extract_above {w v : Nat} (a : BitVec w) (b : BitVec v) (k l : Nat) :
    (a ++ b).extractLsb' (v + k) l = a.extractLsb' k l := by
  apply BitVec.eq_of_getLsbD_eq
  intro i h
  have h1 : ¬ v + k + i < v := by omega
  have h2 : v + k + i - v = k + i := by omega
  simp [BitVec.getLsbD_append, h, h1, h2]

/-- A slice inside the low part is a slice of the low part. -/
theorem extract_below {w v : Nat} (a : BitVec w) (b : BitVec v) (k l : Nat) (hl : k + l ≤ v) :
    (a ++ b).extractLsb' k l = b.extractLsb' k l := by
  apply BitVec.eq_of_getLsbD_eq
  intro i h
  have h1 : k + i < v := by omega
  simp [BitVec.getLsbD_append, h, h1]

theorem extract_all {w : Nat} (a : BitVec w) : a.extractLsb' 0 w = a := by
  apply BitVec.eq_of_getLsbD_eq
  intro i h
  simp [h]

/-! ## Byte order -/

@[simp] theorem joinBytes_highByte_lowByte (w : Word) : joinBytes (highByte w) (lowByte w) = w := by
  unfold joinBytes highByte lowByte
  apply BitVec.eq_of_getLsbD_eq
  intro i hi
  have e := BitVec.getLsbD_append (x := w.extractLsb' 8 8) (y := w.extractLsb' 0 8) (i := i)
  refine e.trans ?_
  by_cases h : i < 8
  · simp [h]
  · have h1 : i - 8 < 8 := by omega
    have h2 : 8 + (i - 8) = i := by omega
    simp [h, h1, h2]

@[simp] theorem highByte_joinBytes (hi lo : Byte) : highByte (joinBytes hi lo) = hi :=
  (extract_above hi lo 0 8).trans (extract_all hi)

@[simp] theorem lowByte_joinBytes (hi lo : Byte) : lowByte (joinBytes hi lo) = lo :=
  extract_low hi lo

/-! ## Fields of packed words -/

theorem regBits_toFin (r : Reg) : (regBits r).toFin = r := rfl

@[simp] theorem fieldF_packNNN (f : BitVec 4) (nnn : BitVec 12) : fieldF (packNNN f nnn) = f :=
  (extract_above f nnn 0 4).trans (extract_all f)

@[simp] theorem fieldNNN_packNNN (f : BitVec 4) (nnn : BitVec 12) : fieldNNN (packNNN f nnn) = nnn :=
  extract_low f nnn

@[simp] theorem fieldF_packXKK (f : BitVec 4) (x : Reg) (kk : Byte) : fieldF (packXKK f x kk) = f :=
  ((extract_above (f ++ regBits x) kk 4 4).trans (extract_above f (regBits x) 0 4)).trans (extract_all f)

@[simp] theorem fieldX_packXKK (f : BitVec 4) (x : Reg) (kk : Byte) : fieldX (packXKK f x kk) = x :=
  congrArg BitVec.toFin ((extract_above (f ++ regBits x) kk 0 4).trans (extract_low f (regBits x)))

@[simp] theorem fieldKK_packXKK (f : BitVec 4) (x : Reg) (kk : Byte) : fieldKK (packXKK f x kk) = kk :=
  extract_low (f ++ regBits x) kk

@[simp] theorem fieldF_packXYN (f : BitVec 4) (x y : Reg) (n : BitVec 4) : fieldF (packXYN f x y n) = f :=
  (((extract_above (f ++ regBits x ++ regBits y) n 8 4).trans (extract_above (f ++ regBits x) (regBits y) 4 4)).trans
    (extract_above f (regBits x) 0 4)).trans (extract_all f)

@[simp] theorem fieldX_packXYN (f : BitVec 4) (x y : Reg) (n : BitVec 4) : fieldX (packXYN f x y n) = x :=
  congrArg BitVec.toFin
    (((extract_above (f ++ regBits x ++ regBits y) n 4 4).trans (extract_above (f ++ regBits x) (regBits y) 0 4)).trans
      (extract_low f (regBits x)))

@[simp] theorem fieldY_packXYN (f : BitVec 4) (x y : Reg) (n : BitVec 4) : fieldY (packXYN f x y n) = y :=
  congrArg BitVec.toFin
    ((extract_above (f ++ regBits x ++ regBits y) n 0 4).trans (extract_low (f ++ regBits x) (regBits y)))

@[simp] theorem fieldN_packXYN (f : BitVec 4) (x y : Reg) (n : BitVec 4) : fieldN (packXYN f x y n) = n.toNat :=
  congrArg BitVec.toNat (extract_low (f ++ regBits x ++ regBits y) n)

/-- A word is its four fields packed. -/
theorem packXYN_fields (op : Word) : packXYN (fieldF op) (fieldX op) (fieldY op) (BitVec.ofNat 4 (fieldN op)) = op := by
  have e : ∀ a b c d : BitVec 4, (a ++ b ++ c ++ d : BitVec 16).toNat =
      ((a.toNat * 16 + b.toNat) * 16 + c.toNat) * 16 + d.toNat := by
    intro a b c d
    have hd : ∀ {w : Nat} (u : BitVec w) (l : BitVec 4), (u ++ l).toNat = u.toNat * 16 + l.toNat := by
      intro w u l
      rw [BitVec.toNat_append, ← Nat.shiftLeft_add_eq_or_of_lt l.isLt, Nat.shiftLeft_eq]
    rw [show (a ++ b ++ c ++ d : BitVec 16).toNat = (a ++ b ++ c ++ d : BitVec (4 + 4 + 4 + 4)).toNat from rfl,
      hd, hd, hd]
  apply BitVec.eq_of_toNat_eq
  have h := op.isLt
  have hx : (regBits (fieldX op)).toNat = (op.extractLsb' 8 4).toNat := rfl
  have hy : (regBits (fieldY op)).toNat = (op.extractLsb' 4 4).toNat := rfl
  rw [packXYN, e, hx, hy]
  simp only [fieldF, fieldN, BitVec.extractLsb'_toNat, BitVec.toNat_ofNat, Nat.shiftRight_eq_div_pow]
  omega

/-- The key of a packed word (R74, R76). -/
theorem dispatchKey_packXYN (f : BitVec 4) (x y : Reg) (n : BitVec 4) :
    dispatchKey (packXYN f x y n) = packXYN f x y n &&& familyMask f := by
  rw [dispatchKey, fieldF_packXYN]

theorem dispatchKey_packXKK (f : BitVec 4) (x : Reg) (kk : Byte) :
    dispatchKey (packXKK f x kk) = packXKK f x kk &&& familyMask f := by
  rw [dispatchKey, fieldF_packXKK]

theorem dispatchKey_packNNN (f : BitVec 4) (nnn : BitVec 12) :
    dispatchKey (packNNN f nnn) = packNNN f nnn &&& familyMask f := by
  rw [dispatchKey, fieldF_packNNN]

/-! ## Decoding bytes -/

/-- Decoding two or more bytes is decoding the word they join to. -/
theorem decode_cons_cons (hi lo : Byte) (rest : List Byte) :
    decode (hi :: lo :: rest) =
      match decodeWord (joinBytes hi lo) with
      | some i => .instr i rest
      | none => .rejected (.unknownOpcode (joinBytes hi lo)) := rfl

end Sys2Proof
end

