-- ==== Sys2Proof/Laws/Memory.lean ====
section
/-! SUPPORT. The laws of memory: a read after a write, and the canonical form. -/

namespace Sys2Proof.Machine

theorem Memory.read_consCell (a : Nat) (b : Byte) (rest : Memory) (c : Nat) (h : rest.read a = resetByte a) :
    (Memory.consCell a b rest).read c = if c = a then b else rest.read c := by
  unfold Memory.consCell
  by_cases hb : b = resetByte a
  · rw [if_pos hb]
    by_cases hc : c = a
    · subst hc; rw [if_pos rfl, h, hb]
    · rw [if_neg hc]
  · rw [if_neg hb]
    by_cases hc : c = a
    · subst hc; simp [Memory.read]
    · simp [Memory.read, hc, Ne.symm hc]

theorem Memory.read_consCell_of_ne (a : Nat) (b : Byte) (rest : Memory) (c : Nat) (h : c ≠ a) :
    (Memory.consCell a b rest).read c = rest.read c := by
  unfold Memory.consCell
  split
  · rfl
  · simp [Memory.read, Ne.symm h]

/-- A write leaves every other address alone. -/
theorem Memory.read_write_of_ne (m : Memory) (a : Nat) (b : Byte) (c : Nat) (h : c ≠ a) :
    (m.write a b).read c = m.read c := by
  induction m with
  | nil => exact Memory.read_consCell_of_ne a b [] c h
  | cons cell rest ih =>
    obtain ⟨k, d⟩ := cell
    rw [Memory.write]
    split
    · exact Memory.read_consCell_of_ne a b _ c h
    · split
      · next hk =>
        subst hk
        rw [Memory.read_consCell_of_ne a b rest c h, Memory.read, if_neg (Ne.symm h)]
      · rw [Memory.read, Memory.read, ih]

theorem Memory.wfFrom_mono (m : Memory) (lo lo' : Nat) (h : m.wfFrom lo = true) (hle : lo' ≤ lo) :
    m.wfFrom lo' = true := by
  cases m with
  | nil => rfl
  | cons cell rest =>
    obtain ⟨k, d⟩ := cell
    simp only [Memory.wfFrom, Bool.and_eq_true, decide_eq_true_eq] at h ⊢
    exact ⟨⟨⟨by omega, h.1.1.2⟩, h.1.2⟩, h.2⟩

/-- An address below every cell reads as the reset contents. -/
theorem Memory.read_below (m : Memory) (lo a : Nat) (h : m.wfFrom lo = true) (ha : a < lo) :
    m.read a = resetByte a := by
  induction m generalizing lo with
  | nil => rfl
  | cons cell rest ih =>
    obtain ⟨k, d⟩ := cell
    simp only [Memory.wfFrom, Bool.and_eq_true, decide_eq_true_eq] at h
    rw [Memory.read, if_neg (by omega)]
    exact ih (k + 1) h.2 (by omega)

/-- A write takes effect at its own address. -/
theorem Memory.read_write_from (m : Memory) (lo a : Nat) (b : Byte) (h : m.wfFrom lo = true) :
    (m.write a b).read a = b := by
  induction m generalizing lo with
  | nil =>
    rw [Memory.write, Memory.read_consCell a b [] a rfl, if_pos rfl]
  | cons cell rest ih =>
    obtain ⟨k, d⟩ := cell
    have hw := h
    simp only [Memory.wfFrom, Bool.and_eq_true, decide_eq_true_eq] at h
    rw [Memory.write]
    split
    · next hlt =>
      rw [Memory.read_consCell a b _ a, if_pos rfl]
      rw [Memory.read, if_neg (by omega)]
      exact Memory.read_below rest (k + 1) a h.2 (by omega)
    · split
      · next hk =>
        subst hk
        rw [Memory.read_consCell a b rest a, if_pos rfl]
        exact Memory.read_below rest (a + 1) a h.2 (by omega)
      · next h1 h2 =>
        rw [Memory.read, if_neg (fun e => h2 e.symm)]
        exact ih (k + 1) h.2

theorem Memory.read_write_same (m : Memory) (a : Nat) (b : Byte) (h : m.wf = true) : (m.write a b).read a = b :=
  Memory.read_write_from m 0 a b h

/-- A read after a write, at any address. -/
theorem Memory.read_write (m : Memory) (a : Nat) (b : Byte) (c : Nat) (h : m.wf = true) :
    (m.write a b).read c = if c = a then b else m.read c := by
  by_cases hc : c = a
  · subst hc; rw [if_pos rfl, Memory.read_write_same m c b h]
  · rw [if_neg hc, Memory.read_write_of_ne m a b c hc]

theorem Memory.wfFrom_consCell (a : Nat) (b : Byte) (rest : Memory) (lo : Nat) (hlo : lo ≤ a) (ha : a < memSize)
    (h : rest.wfFrom (a + 1) = true) : (Memory.consCell a b rest).wfFrom lo = true := by
  unfold Memory.consCell
  by_cases hb : b = resetByte a
  · rw [if_pos hb]; exact Memory.wfFrom_mono rest (a + 1) lo h (by omega)
  · rw [if_neg hb]
    simp only [Memory.wfFrom, Bool.and_eq_true, decide_eq_true_eq, bne_iff_ne, ne_eq]
    exact ⟨⟨⟨hlo, ha⟩, hb⟩, h⟩

theorem Memory.wfFrom_write (m : Memory) (lo a : Nat) (b : Byte) (h : m.wfFrom lo = true) (hlo : lo ≤ a)
    (ha : a < memSize) : (m.write a b).wfFrom lo = true := by
  induction m generalizing lo with
  | nil => exact Memory.wfFrom_consCell a b [] lo hlo ha rfl
  | cons cell rest ih =>
    obtain ⟨k, d⟩ := cell
    have h' := h
    simp only [Memory.wfFrom, Bool.and_eq_true, decide_eq_true_eq] at h
    rw [Memory.write]
    split
    · next hlt =>
      refine Memory.wfFrom_consCell a b _ lo hlo ha ?_
      simp only [Memory.wfFrom, Bool.and_eq_true, decide_eq_true_eq]
      exact ⟨⟨⟨by omega, h.1.1.2⟩, h.1.2⟩, h.2⟩
    · split
      · next hk =>
        subst hk
        exact Memory.wfFrom_consCell a b rest lo hlo ha h.2
      · next h1 h2 =>
        simp only [Memory.wfFrom, Bool.and_eq_true, decide_eq_true_eq]
        exact ⟨h.1, ih (k + 1) h.2 (by omega)⟩

/-- A write inside memory keeps the canonical form. -/
theorem Memory.wf_write (m : Memory) (a : Nat) (b : Byte) (h : m.wf = true) (ha : a < memSize) :
    (m.write a b).wf = true :=
  Memory.wfFrom_write m 0 a b h (Nat.zero_le a) ha

/-- So does a block of writes. -/
theorem Memory.wf_writeAll (m : Memory) (a : Nat) (bs : List Byte) (h : m.wf = true) (ha : a + bs.length ≤ memSize) :
    (m.writeAll a bs).wf = true := by
  induction bs generalizing m a with
  | nil => exact h
  | cons b bs ih =>
    rw [List.length_cons] at ha
    exact ih (m.write a b) (a + 1) (Memory.wf_write m a b h (by omega)) (by omega)

/-- What a block of writes leaves at each address. -/
theorem Memory.read_writeAll (m : Memory) (a : Nat) (bs : List Byte) (c : Nat) (h : m.wf = true)
    (ha : a + bs.length ≤ memSize) :
    (m.writeAll a bs).read c = if a ≤ c then bs.getD (c - a) (m.read c) else m.read c := by
  induction bs generalizing m a with
  | nil => simp [Memory.writeAll]
  | cons b bs ih =>
    rw [List.length_cons] at ha
    rw [Memory.writeAll, ih (m.write a b) (a + 1) (Memory.wf_write m a b h (by omega)) (by omega),
      Memory.read_write m a b c h]
    rcases Nat.lt_trichotomy c a with hc | hc | hc
    · rw [if_neg (by omega), if_neg (by omega), if_neg (by omega)]
    · subst hc; rw [if_neg (by omega), if_pos rfl, if_pos (Nat.le_refl c), Nat.sub_self]; rfl
    · rw [if_pos (by omega), if_neg (by omega), if_pos (by omega)]
      obtain ⟨d, rfl⟩ : ∃ d, c = a + 1 + d := ⟨c - (a + 1), by omega⟩
      have e : a + 1 + d - a = d + 1 := by omega
      rw [e, Nat.add_sub_cancel_left, List.getD_cons_succ]

/-- Two canonical memories that read alike are the same data. -/
theorem Memory.ext_from (m m' : Memory) (lo : Nat) (h : m.wfFrom lo = true) (h' : m'.wfFrom lo = true)
    (hr : ∀ a, lo ≤ a → m.read a = m'.read a) : m = m' := by
  induction m generalizing lo m' with
  | nil =>
    cases m' with
    | nil => rfl
    | cons cell rest =>
      obtain ⟨k, d⟩ := cell
      simp only [Memory.wfFrom, Bool.and_eq_true, decide_eq_true_eq, bne_iff_ne, ne_eq] at h'
      have := hr k h'.1.1.1
      simp only [Memory.read, if_true] at this
      exact absurd this.symm h'.1.2
  | cons cell rest ih =>
    obtain ⟨k, d⟩ := cell
    cases m' with
    | nil =>
      simp only [Memory.wfFrom, Bool.and_eq_true, decide_eq_true_eq, bne_iff_ne, ne_eq] at h
      have := hr k h.1.1.1
      simp only [Memory.read, if_true] at this
      exact absurd this h.1.2
    | cons cell' rest' =>
      obtain ⟨k', d'⟩ := cell'
      have w := h
      have w' := h'
      simp only [Memory.wfFrom, Bool.and_eq_true, decide_eq_true_eq, bne_iff_ne, ne_eq] at h h'
      have hk : k = k' := by
        rcases Nat.lt_trichotomy k k' with hlt | heq | hlt
        · have := hr k h.1.1.1
          rw [Memory.read, if_pos rfl, Memory.read, if_neg (by omega),
            Memory.read_below rest' (k' + 1) k h'.2 (by omega)] at this
          exact absurd this h.1.2
        · exact heq
        · have := hr k' h'.1.1.1
          rw [Memory.read, if_neg (by omega), Memory.read_below rest (k + 1) k' h.2 (by omega), Memory.read,
            if_pos rfl] at this
          exact absurd this.symm h'.1.2
      subst hk
      have hd : d = d' := by
        have := hr k h.1.1.1
        simpa [Memory.read] using this
      subst hd
      congr 1
      refine ih rest' (k + 1) h.2 h'.2 ?_
      intro a ha
      have := hr a (by omega)
      rwa [Memory.read, if_neg (by omega), Memory.read, if_neg (by omega)] at this

theorem Memory.ext_read (m m' : Memory) (h : m.wf = true) (h' : m'.wf = true) (hr : ∀ a, m.read a = m'.read a) :
    m = m' :=
  Memory.ext_from m m' 0 h h' fun a _ => hr a

end Sys2Proof.Machine
end

