-- ==== Sys2Proof/Laws/State.lean ====
section
/-! SUPPORT. Each field of each named update of State, so that no proof unfolds a record update. -/

namespace Sys2Proof.Machine

/-! ## setV -/

@[simp] theorem State.setV_v (s : State) (r : Reg) (b : Byte) : (s.setV r b).v = s.v.set r b := rfl
@[simp] theorem State.setV_pc (s : State) (r : Reg) (b : Byte) : (s.setV r b).pc = s.pc := rfl
@[simp] theorem State.setV_idx (s : State) (r : Reg) (b : Byte) : (s.setV r b).idx = s.idx := rfl
@[simp] theorem State.setV_sp (s : State) (r : Reg) (b : Byte) : (s.setV r b).sp = s.sp := rfl
@[simp] theorem State.setV_stack (s : State) (r : Reg) (b : Byte) : (s.setV r b).stack = s.stack := rfl
@[simp] theorem State.setV_dt (s : State) (r : Reg) (b : Byte) : (s.setV r b).dt = s.dt := rfl
@[simp] theorem State.setV_st (s : State) (r : Reg) (b : Byte) : (s.setV r b).st = s.st := rfl
@[simp] theorem State.setV_key (s : State) (r : Reg) (b : Byte) : (s.setV r b).key = s.key := rfl
@[simp] theorem State.setV_fb (s : State) (r : Reg) (b : Byte) : (s.setV r b).fb = s.fb := rfl
@[simp] theorem State.setV_opcode (s : State) (r : Reg) (b : Byte) : (s.setV r b).opcode = s.opcode := rfl
@[simp] theorem State.setV_mem (s : State) (r : Reg) (b : Byte) : (s.setV r b).mem = s.mem := rfl
@[simp] theorem State.setV_run (s : State) (r : Reg) (b : Byte) : (s.setV r b).run = s.run := rfl
@[simp] theorem State.setV_fault (s : State) (r : Reg) (b : Byte) : (s.setV r b).fault = s.fault := rfl
@[simp] theorem State.setV_diag (s : State) (r : Reg) (b : Byte) : (s.setV r b).diag = s.diag := rfl
@[simp] theorem State.setV_report (s : State) (r : Reg) (b : Byte) : (s.setV r b).report = s.report := rfl
@[simp] theorem State.setV_loader (s : State) (r : Reg) (b : Byte) : (s.setV r b).loader = s.loader := rfl
@[simp] theorem State.setV_agenda (s : State) (r : Reg) (b : Byte) : (s.setV r b).agenda = s.agenda := rfl
@[simp] theorem State.setV_draws (s : State) (r : Reg) (b : Byte) : (s.setV r b).draws = s.draws := rfl
@[simp] theorem State.setV_params (s : State) (r : Reg) (b : Byte) : (s.setV r b).params = s.params := rfl

/-! ## writeByte -/

@[simp] theorem State.writeByte_v (s : State) (a : Nat) (b : Byte) : (s.writeByte a b).v = s.v := rfl
@[simp] theorem State.writeByte_pc (s : State) (a : Nat) (b : Byte) : (s.writeByte a b).pc = s.pc := rfl
@[simp] theorem State.writeByte_idx (s : State) (a : Nat) (b : Byte) : (s.writeByte a b).idx = s.idx := rfl
@[simp] theorem State.writeByte_sp (s : State) (a : Nat) (b : Byte) : (s.writeByte a b).sp = s.sp := rfl
@[simp] theorem State.writeByte_stack (s : State) (a : Nat) (b : Byte) : (s.writeByte a b).stack = s.stack := rfl
@[simp] theorem State.writeByte_dt (s : State) (a : Nat) (b : Byte) : (s.writeByte a b).dt = s.dt := rfl
@[simp] theorem State.writeByte_st (s : State) (a : Nat) (b : Byte) : (s.writeByte a b).st = s.st := rfl
@[simp] theorem State.writeByte_key (s : State) (a : Nat) (b : Byte) : (s.writeByte a b).key = s.key := rfl
@[simp] theorem State.writeByte_fb (s : State) (a : Nat) (b : Byte) : (s.writeByte a b).fb = s.fb := rfl
@[simp] theorem State.writeByte_opcode (s : State) (a : Nat) (b : Byte) : (s.writeByte a b).opcode = s.opcode := rfl
@[simp] theorem State.writeByte_mem (s : State) (a : Nat) (b : Byte) : (s.writeByte a b).mem = s.mem.write a b := rfl
@[simp] theorem State.writeByte_run (s : State) (a : Nat) (b : Byte) : (s.writeByte a b).run = s.run := rfl
@[simp] theorem State.writeByte_fault (s : State) (a : Nat) (b : Byte) : (s.writeByte a b).fault = s.fault := rfl
@[simp] theorem State.writeByte_diag (s : State) (a : Nat) (b : Byte) : (s.writeByte a b).diag = s.diag := rfl
@[simp] theorem State.writeByte_report (s : State) (a : Nat) (b : Byte) : (s.writeByte a b).report = s.report := rfl
@[simp] theorem State.writeByte_loader (s : State) (a : Nat) (b : Byte) : (s.writeByte a b).loader = s.loader := rfl
@[simp] theorem State.writeByte_agenda (s : State) (a : Nat) (b : Byte) : (s.writeByte a b).agenda = s.agenda := rfl
@[simp] theorem State.writeByte_draws (s : State) (a : Nat) (b : Byte) : (s.writeByte a b).draws = s.draws := rfl
@[simp] theorem State.writeByte_params (s : State) (a : Nat) (b : Byte) : (s.writeByte a b).params = s.params := rfl

/-! ## setPixel -/

@[simp] theorem State.setPixel_v (s : State) (y : Fin 32) (x : Fin 64) (b : Bool) : (s.setPixel y x b).v = s.v := rfl
@[simp] theorem State.setPixel_pc (s : State) (y : Fin 32) (x : Fin 64) (b : Bool) : (s.setPixel y x b).pc = s.pc := rfl
@[simp] theorem State.setPixel_idx (s : State) (y : Fin 32) (x : Fin 64) (b : Bool) : (s.setPixel y x b).idx = s.idx := rfl
@[simp] theorem State.setPixel_sp (s : State) (y : Fin 32) (x : Fin 64) (b : Bool) : (s.setPixel y x b).sp = s.sp := rfl
@[simp] theorem State.setPixel_stack (s : State) (y : Fin 32) (x : Fin 64) (b : Bool) : (s.setPixel y x b).stack = s.stack := rfl
@[simp] theorem State.setPixel_dt (s : State) (y : Fin 32) (x : Fin 64) (b : Bool) : (s.setPixel y x b).dt = s.dt := rfl
@[simp] theorem State.setPixel_st (s : State) (y : Fin 32) (x : Fin 64) (b : Bool) : (s.setPixel y x b).st = s.st := rfl
@[simp] theorem State.setPixel_key (s : State) (y : Fin 32) (x : Fin 64) (b : Bool) : (s.setPixel y x b).key = s.key := rfl
@[simp] theorem State.setPixel_fb (s : State) (y : Fin 32) (x : Fin 64) (b : Bool) : (s.setPixel y x b).fb = s.fb.set y (s.fb[y].set x b) := rfl
@[simp] theorem State.setPixel_opcode (s : State) (y : Fin 32) (x : Fin 64) (b : Bool) : (s.setPixel y x b).opcode = s.opcode := rfl
@[simp] theorem State.setPixel_mem (s : State) (y : Fin 32) (x : Fin 64) (b : Bool) : (s.setPixel y x b).mem = s.mem := rfl
@[simp] theorem State.setPixel_run (s : State) (y : Fin 32) (x : Fin 64) (b : Bool) : (s.setPixel y x b).run = s.run := rfl
@[simp] theorem State.setPixel_fault (s : State) (y : Fin 32) (x : Fin 64) (b : Bool) : (s.setPixel y x b).fault = s.fault := rfl
@[simp] theorem State.setPixel_diag (s : State) (y : Fin 32) (x : Fin 64) (b : Bool) : (s.setPixel y x b).diag = s.diag := rfl
@[simp] theorem State.setPixel_report (s : State) (y : Fin 32) (x : Fin 64) (b : Bool) : (s.setPixel y x b).report = s.report := rfl
@[simp] theorem State.setPixel_loader (s : State) (y : Fin 32) (x : Fin 64) (b : Bool) : (s.setPixel y x b).loader = s.loader := rfl
@[simp] theorem State.setPixel_agenda (s : State) (y : Fin 32) (x : Fin 64) (b : Bool) : (s.setPixel y x b).agenda = s.agenda := rfl
@[simp] theorem State.setPixel_draws (s : State) (y : Fin 32) (x : Fin 64) (b : Bool) : (s.setPixel y x b).draws = s.draws := rfl
@[simp] theorem State.setPixel_params (s : State) (y : Fin 32) (x : Fin 64) (b : Bool) : (s.setPixel y x b).params = s.params := rfl

/-! ## takeFault -/

@[simp] theorem State.takeFault_v (r : FaultRecord) (s : State) : (s.takeFault r).v = s.v := rfl
@[simp] theorem State.takeFault_pc (r : FaultRecord) (s : State) : (s.takeFault r).pc = s.pc := rfl
@[simp] theorem State.takeFault_idx (r : FaultRecord) (s : State) : (s.takeFault r).idx = s.idx := rfl
@[simp] theorem State.takeFault_sp (r : FaultRecord) (s : State) : (s.takeFault r).sp = s.sp := rfl
@[simp] theorem State.takeFault_stack (r : FaultRecord) (s : State) : (s.takeFault r).stack = s.stack := rfl
@[simp] theorem State.takeFault_dt (r : FaultRecord) (s : State) : (s.takeFault r).dt = s.dt := rfl
@[simp] theorem State.takeFault_st (r : FaultRecord) (s : State) : (s.takeFault r).st = s.st := rfl
@[simp] theorem State.takeFault_key (r : FaultRecord) (s : State) : (s.takeFault r).key = s.key := rfl
@[simp] theorem State.takeFault_fb (r : FaultRecord) (s : State) : (s.takeFault r).fb = s.fb := rfl
@[simp] theorem State.takeFault_opcode (r : FaultRecord) (s : State) : (s.takeFault r).opcode = s.opcode := rfl
@[simp] theorem State.takeFault_mem (r : FaultRecord) (s : State) : (s.takeFault r).mem = s.mem := rfl
@[simp] theorem State.takeFault_run (r : FaultRecord) (s : State) : (s.takeFault r).run = .stopped := rfl
@[simp] theorem State.takeFault_fault (r : FaultRecord) (s : State) : (s.takeFault r).fault = s.fault.or (some r) := rfl
@[simp] theorem State.takeFault_diag (r : FaultRecord) (s : State) : (s.takeFault r).diag = s.diag := rfl
@[simp] theorem State.takeFault_report (r : FaultRecord) (s : State) : (s.takeFault r).report = s.report := rfl
@[simp] theorem State.takeFault_loader (r : FaultRecord) (s : State) : (s.takeFault r).loader = s.loader := rfl
@[simp] theorem State.takeFault_agenda (r : FaultRecord) (s : State) : (s.takeFault r).agenda = s.agenda := rfl
@[simp] theorem State.takeFault_draws (r : FaultRecord) (s : State) : (s.takeFault r).draws = s.draws := rfl
@[simp] theorem State.takeFault_params (r : FaultRecord) (s : State) : (s.takeFault r).params = s.params := rfl

/-! ## countDraw -/

@[simp] theorem State.countDraw_v (s : State) : (s.countDraw).v = s.v := rfl
@[simp] theorem State.countDraw_pc (s : State) : (s.countDraw).pc = s.pc := rfl
@[simp] theorem State.countDraw_idx (s : State) : (s.countDraw).idx = s.idx := rfl
@[simp] theorem State.countDraw_sp (s : State) : (s.countDraw).sp = s.sp := rfl
@[simp] theorem State.countDraw_stack (s : State) : (s.countDraw).stack = s.stack := rfl
@[simp] theorem State.countDraw_dt (s : State) : (s.countDraw).dt = s.dt := rfl
@[simp] theorem State.countDraw_st (s : State) : (s.countDraw).st = s.st := rfl
@[simp] theorem State.countDraw_key (s : State) : (s.countDraw).key = s.key := rfl
@[simp] theorem State.countDraw_fb (s : State) : (s.countDraw).fb = s.fb := rfl
@[simp] theorem State.countDraw_opcode (s : State) : (s.countDraw).opcode = s.opcode := rfl
@[simp] theorem State.countDraw_mem (s : State) : (s.countDraw).mem = s.mem := rfl
@[simp] theorem State.countDraw_run (s : State) : (s.countDraw).run = s.run := rfl
@[simp] theorem State.countDraw_fault (s : State) : (s.countDraw).fault = s.fault := rfl
@[simp] theorem State.countDraw_diag (s : State) : (s.countDraw).diag = s.diag := rfl
@[simp] theorem State.countDraw_report (s : State) : (s.countDraw).report = s.report := rfl
@[simp] theorem State.countDraw_loader (s : State) : (s.countDraw).loader = s.loader := rfl
@[simp] theorem State.countDraw_agenda (s : State) : (s.countDraw).agenda = s.agenda := rfl
@[simp] theorem State.countDraw_draws (s : State) : (s.countDraw).draws = s.draws + 1 := rfl
@[simp] theorem State.countDraw_params (s : State) : (s.countDraw).params = s.params := rfl

/-! ## setIdxPast -/

@[simp] theorem State.setIdxPast_v (s : State) (x : Reg) : (s.setIdxPast x).v = s.v := rfl
@[simp] theorem State.setIdxPast_pc (s : State) (x : Reg) : (s.setIdxPast x).pc = s.pc := rfl
@[simp] theorem State.setIdxPast_idx (s : State) (x : Reg) : (s.setIdxPast x).idx = BitVec.ofNat 16 (x.val + 1) := rfl
@[simp] theorem State.setIdxPast_sp (s : State) (x : Reg) : (s.setIdxPast x).sp = s.sp := rfl
@[simp] theorem State.setIdxPast_stack (s : State) (x : Reg) : (s.setIdxPast x).stack = s.stack := rfl
@[simp] theorem State.setIdxPast_dt (s : State) (x : Reg) : (s.setIdxPast x).dt = s.dt := rfl
@[simp] theorem State.setIdxPast_st (s : State) (x : Reg) : (s.setIdxPast x).st = s.st := rfl
@[simp] theorem State.setIdxPast_key (s : State) (x : Reg) : (s.setIdxPast x).key = s.key := rfl
@[simp] theorem State.setIdxPast_fb (s : State) (x : Reg) : (s.setIdxPast x).fb = s.fb := rfl
@[simp] theorem State.setIdxPast_opcode (s : State) (x : Reg) : (s.setIdxPast x).opcode = s.opcode := rfl
@[simp] theorem State.setIdxPast_mem (s : State) (x : Reg) : (s.setIdxPast x).mem = s.mem := rfl
@[simp] theorem State.setIdxPast_run (s : State) (x : Reg) : (s.setIdxPast x).run = s.run := rfl
@[simp] theorem State.setIdxPast_fault (s : State) (x : Reg) : (s.setIdxPast x).fault = s.fault := rfl
@[simp] theorem State.setIdxPast_diag (s : State) (x : Reg) : (s.setIdxPast x).diag = s.diag := rfl
@[simp] theorem State.setIdxPast_report (s : State) (x : Reg) : (s.setIdxPast x).report = s.report := rfl
@[simp] theorem State.setIdxPast_loader (s : State) (x : Reg) : (s.setIdxPast x).loader = s.loader := rfl
@[simp] theorem State.setIdxPast_agenda (s : State) (x : Reg) : (s.setIdxPast x).agenda = s.agenda := rfl
@[simp] theorem State.setIdxPast_draws (s : State) (x : Reg) : (s.setIdxPast x).draws = s.draws := rfl
@[simp] theorem State.setIdxPast_params (s : State) (x : Reg) : (s.setIdxPast x).params = s.params := rfl

/-! ## fetched -/

@[simp] theorem State.fetched_v (s : State) : (s.fetched).v = s.v := rfl
@[simp] theorem State.fetched_pc (s : State) : (s.fetched).pc = s.pc + 2 := rfl
@[simp] theorem State.fetched_idx (s : State) : (s.fetched).idx = s.idx := rfl
@[simp] theorem State.fetched_sp (s : State) : (s.fetched).sp = s.sp := rfl
@[simp] theorem State.fetched_stack (s : State) : (s.fetched).stack = s.stack := rfl
@[simp] theorem State.fetched_dt (s : State) : (s.fetched).dt = s.dt := rfl
@[simp] theorem State.fetched_st (s : State) : (s.fetched).st = s.st := rfl
@[simp] theorem State.fetched_key (s : State) : (s.fetched).key = s.key := rfl
@[simp] theorem State.fetched_fb (s : State) : (s.fetched).fb = s.fb := rfl
@[simp] theorem State.fetched_opcode (s : State) : (s.fetched).opcode = s.fetchWord := rfl
@[simp] theorem State.fetched_mem (s : State) : (s.fetched).mem = s.mem := rfl
@[simp] theorem State.fetched_run (s : State) : (s.fetched).run = s.run := rfl
@[simp] theorem State.fetched_fault (s : State) : (s.fetched).fault = s.fault := rfl
@[simp] theorem State.fetched_diag (s : State) : (s.fetched).diag = s.diag := rfl
@[simp] theorem State.fetched_report (s : State) : (s.fetched).report = s.report := rfl
@[simp] theorem State.fetched_loader (s : State) : (s.fetched).loader = s.loader := rfl
@[simp] theorem State.fetched_agenda (s : State) : (s.fetched).agenda = s.agenda := rfl
@[simp] theorem State.fetched_draws (s : State) : (s.fetched).draws = s.draws := rfl
@[simp] theorem State.fetched_params (s : State) : (s.fetched).params = s.params := rfl

/-! ## reportUnknown -/

@[simp] theorem State.reportUnknown_v (s : State) : (s.reportUnknown).v = s.v := rfl
@[simp] theorem State.reportUnknown_pc (s : State) : (s.reportUnknown).pc = s.pc := rfl
@[simp] theorem State.reportUnknown_idx (s : State) : (s.reportUnknown).idx = s.idx := rfl
@[simp] theorem State.reportUnknown_sp (s : State) : (s.reportUnknown).sp = s.sp := rfl
@[simp] theorem State.reportUnknown_stack (s : State) : (s.reportUnknown).stack = s.stack := rfl
@[simp] theorem State.reportUnknown_dt (s : State) : (s.reportUnknown).dt = s.dt := rfl
@[simp] theorem State.reportUnknown_st (s : State) : (s.reportUnknown).st = s.st := rfl
@[simp] theorem State.reportUnknown_key (s : State) : (s.reportUnknown).key = s.key := rfl
@[simp] theorem State.reportUnknown_fb (s : State) : (s.reportUnknown).fb = s.fb := rfl
@[simp] theorem State.reportUnknown_opcode (s : State) : (s.reportUnknown).opcode = s.opcode := rfl
@[simp] theorem State.reportUnknown_mem (s : State) : (s.reportUnknown).mem = s.mem := rfl
@[simp] theorem State.reportUnknown_run (s : State) : (s.reportUnknown).run = s.run := rfl
@[simp] theorem State.reportUnknown_fault (s : State) : (s.reportUnknown).fault = s.fault := rfl
@[simp] theorem State.reportUnknown_diag (s : State) : (s.reportUnknown).diag = s.diag ++ [⟨s.instrAddr, s.opcode⟩] := rfl
@[simp] theorem State.reportUnknown_report (s : State) : (s.reportUnknown).report = s.report := rfl
@[simp] theorem State.reportUnknown_loader (s : State) : (s.reportUnknown).loader = s.loader := rfl
@[simp] theorem State.reportUnknown_agenda (s : State) : (s.reportUnknown).agenda = s.agenda := rfl
@[simp] theorem State.reportUnknown_draws (s : State) : (s.reportUnknown).draws = s.draws := rfl
@[simp] theorem State.reportUnknown_params (s : State) : (s.reportUnknown).params = s.params := rfl

/-! ## dequeued -/

@[simp] theorem State.dequeued_v (s : State) : (s.dequeued).v = s.v := rfl
@[simp] theorem State.dequeued_pc (s : State) : (s.dequeued).pc = s.pc := rfl
@[simp] theorem State.dequeued_idx (s : State) : (s.dequeued).idx = s.idx := rfl
@[simp] theorem State.dequeued_sp (s : State) : (s.dequeued).sp = s.sp := rfl
@[simp] theorem State.dequeued_stack (s : State) : (s.dequeued).stack = s.stack := rfl
@[simp] theorem State.dequeued_dt (s : State) : (s.dequeued).dt = s.dt := rfl
@[simp] theorem State.dequeued_st (s : State) : (s.dequeued).st = s.st := rfl
@[simp] theorem State.dequeued_key (s : State) : (s.dequeued).key = s.key := rfl
@[simp] theorem State.dequeued_fb (s : State) : (s.dequeued).fb = s.fb := rfl
@[simp] theorem State.dequeued_opcode (s : State) : (s.dequeued).opcode = s.opcode := rfl
@[simp] theorem State.dequeued_mem (s : State) : (s.dequeued).mem = s.mem := rfl
@[simp] theorem State.dequeued_run (s : State) : (s.dequeued).run = s.run := rfl
@[simp] theorem State.dequeued_fault (s : State) : (s.dequeued).fault = s.fault := rfl
@[simp] theorem State.dequeued_diag (s : State) : (s.dequeued).diag = s.diag := rfl
@[simp] theorem State.dequeued_report (s : State) : (s.dequeued).report = s.report := rfl
@[simp] theorem State.dequeued_loader (s : State) : (s.dequeued).loader = s.loader := rfl
@[simp] theorem State.dequeued_agenda (s : State) : (s.dequeued).agenda = s.agenda.tail := rfl
@[simp] theorem State.dequeued_draws (s : State) : (s.dequeued).draws = s.draws := rfl
@[simp] theorem State.dequeued_params (s : State) : (s.dequeued).params = s.params := rfl

/-! ## timerTick -/

@[simp] theorem State.timerTick_v (s : State) : (s.timerTick).v = s.v := rfl
@[simp] theorem State.timerTick_pc (s : State) : (s.timerTick).pc = s.pc := rfl
@[simp] theorem State.timerTick_idx (s : State) : (s.timerTick).idx = s.idx := rfl
@[simp] theorem State.timerTick_sp (s : State) : (s.timerTick).sp = s.sp := rfl
@[simp] theorem State.timerTick_stack (s : State) : (s.timerTick).stack = s.stack := rfl
@[simp] theorem State.timerTick_dt (s : State) : (s.timerTick).dt = tickDown s.dt := rfl
@[simp] theorem State.timerTick_st (s : State) : (s.timerTick).st = tickDown s.st := rfl
@[simp] theorem State.timerTick_key (s : State) : (s.timerTick).key = s.key := rfl
@[simp] theorem State.timerTick_fb (s : State) : (s.timerTick).fb = s.fb := rfl
@[simp] theorem State.timerTick_opcode (s : State) : (s.timerTick).opcode = s.opcode := rfl
@[simp] theorem State.timerTick_mem (s : State) : (s.timerTick).mem = s.mem := rfl
@[simp] theorem State.timerTick_run (s : State) : (s.timerTick).run = s.run := rfl
@[simp] theorem State.timerTick_fault (s : State) : (s.timerTick).fault = s.fault := rfl
@[simp] theorem State.timerTick_diag (s : State) : (s.timerTick).diag = s.diag := rfl
@[simp] theorem State.timerTick_report (s : State) : (s.timerTick).report = s.report := rfl
@[simp] theorem State.timerTick_loader (s : State) : (s.timerTick).loader = s.loader := rfl
@[simp] theorem State.timerTick_agenda (s : State) : (s.timerTick).agenda = s.agenda := rfl
@[simp] theorem State.timerTick_draws (s : State) : (s.timerTick).draws = s.draws := rfl
@[simp] theorem State.timerTick_params (s : State) : (s.timerTick).params = s.params := rfl

/-! ## skipIf -/

@[simp] theorem State.skipIf_v (s : State) (c : Bool) : (s.skipIf c).v = s.v := by cases c <;> rfl
theorem State.skipIf_pc (s : State) (c : Bool) : (s.skipIf c).pc = if c then s.pc + 2 else s.pc := by cases c <;> rfl
@[simp] theorem State.skipIf_idx (s : State) (c : Bool) : (s.skipIf c).idx = s.idx := by cases c <;> rfl
@[simp] theorem State.skipIf_sp (s : State) (c : Bool) : (s.skipIf c).sp = s.sp := by cases c <;> rfl
@[simp] theorem State.skipIf_stack (s : State) (c : Bool) : (s.skipIf c).stack = s.stack := by cases c <;> rfl
@[simp] theorem State.skipIf_dt (s : State) (c : Bool) : (s.skipIf c).dt = s.dt := by cases c <;> rfl
@[simp] theorem State.skipIf_st (s : State) (c : Bool) : (s.skipIf c).st = s.st := by cases c <;> rfl
@[simp] theorem State.skipIf_key (s : State) (c : Bool) : (s.skipIf c).key = s.key := by cases c <;> rfl
@[simp] theorem State.skipIf_fb (s : State) (c : Bool) : (s.skipIf c).fb = s.fb := by cases c <;> rfl
@[simp] theorem State.skipIf_opcode (s : State) (c : Bool) : (s.skipIf c).opcode = s.opcode := by cases c <;> rfl
@[simp] theorem State.skipIf_mem (s : State) (c : Bool) : (s.skipIf c).mem = s.mem := by cases c <;> rfl
@[simp] theorem State.skipIf_run (s : State) (c : Bool) : (s.skipIf c).run = s.run := by cases c <;> rfl
@[simp] theorem State.skipIf_fault (s : State) (c : Bool) : (s.skipIf c).fault = s.fault := by cases c <;> rfl
@[simp] theorem State.skipIf_diag (s : State) (c : Bool) : (s.skipIf c).diag = s.diag := by cases c <;> rfl
@[simp] theorem State.skipIf_report (s : State) (c : Bool) : (s.skipIf c).report = s.report := by cases c <;> rfl
@[simp] theorem State.skipIf_loader (s : State) (c : Bool) : (s.skipIf c).loader = s.loader := by cases c <;> rfl
@[simp] theorem State.skipIf_agenda (s : State) (c : Bool) : (s.skipIf c).agenda = s.agenda := by cases c <;> rfl
@[simp] theorem State.skipIf_draws (s : State) (c : Bool) : (s.skipIf c).draws = s.draws := by cases c <;> rfl
@[simp] theorem State.skipIf_params (s : State) (c : Bool) : (s.skipIf c).params = s.params := by cases c <;> rfl

/-! ## logicFlag and writeFlagAndResult write V only -/

theorem State.logicFlag_eq (s : State) : ∃ v, s.logicFlag = { s with v := v } := by
  unfold State.logicFlag
  split
  · exact ⟨s.v, rfl⟩
  · exact ⟨_, rfl⟩

theorem State.writeFlagAndResult_eq (s : State) (x : Reg) (f : Byte) (g : State → Byte) :
    ∃ v, s.writeFlagAndResult x f g = { s with v := v } := by
  unfold State.writeFlagAndResult
  split
  · exact ⟨_, rfl⟩
  · exact ⟨_, rfl⟩

end Sys2Proof.Machine
end

