-- ==== Sys2Proof/Laws/Ops.lean ====
section
/-! SUPPORT. What each shared operation can do, said once: registers, pixels, memory in a state, checks, faults, and the
loops of FX55, FX65 and DXYN. -/

namespace Sys2Proof.Machine

/-! ## Registers -/

@[simp] theorem State.getV_setV_same (s : State) (r : Reg) (b : Byte) : (s.setV r b).getV r = b := by
  simp [State.getV, State.setV]

theorem State.getV_setV (s : State) (r q : Reg) (b : Byte) : (s.setV r b).getV q = if q = r then b else s.getV q := by
  by_cases h : q = r
  · subst h; simp
  · simp [State.getV, State.setV, h, Fin.val_inj, Ne.symm h]

theorem State.getV_setV_of_ne (s : State) (r q : Reg) (b : Byte) (h : q ≠ r) : (s.setV r b).getV q = s.getV q := by
  rw [State.getV_setV, if_neg h]

/-- Registers depend on the field `v` only. -/
theorem State.getV_congr {s t : State} (h : t.v = s.v) (r : Reg) : t.getV r = s.getV r := by
  unfold State.getV; rw [h]

@[simp] theorem State.getV_writeByte (s : State) (a : Nat) (b : Byte) (r : Reg) : (s.writeByte a b).getV r = s.getV r :=
  rfl

@[simp] theorem State.getV_setPixel (s : State) (y : Fin 32) (x : Fin 64) (b : Bool) (r : Reg) :
    (s.setPixel y x b).getV r = s.getV r := rfl

@[simp] theorem State.getV_countDraw (s : State) (r : Reg) : s.countDraw.getV r = s.getV r := rfl

@[simp] theorem State.getV_setIdxPast (s : State) (x r : Reg) : (s.setIdxPast x).getV r = s.getV r := rfl

@[simp] theorem State.getV_takeFault (f : FaultRecord) (s : State) (r : Reg) : (s.takeFault f).getV r = s.getV r := rfl

@[simp] theorem State.getV_skipIf (s : State) (c : Bool) (r : Reg) : (s.skipIf c).getV r = s.getV r := by
  cases c <;> rfl

/-! ## Pixels -/

theorem State.pixel_setPixel (s : State) (y y' : Fin 32) (x x' : Fin 64) (b : Bool) :
    (s.setPixel y x b).pixel y' x' = if y' = y ∧ x' = x then b else s.pixel y' x' := by
  unfold State.pixel State.setPixel
  by_cases hy : y' = y
  · subst hy
    by_cases hx : x' = x
    · subst hx; simp
    · simp [hx, Fin.val_inj, Ne.symm hx]
  · simp [hy, Fin.val_inj, Ne.symm hy]

/-- Pixels depend on the field `fb` only. -/
theorem State.pixel_congr {s t : State} (h : t.fb = s.fb) (y : Fin 32) (x : Fin 64) : t.pixel y x = s.pixel y x := by
  unfold State.pixel; rw [h]

@[simp] theorem State.pixel_setV (s : State) (r : Reg) (b : Byte) (y : Fin 32) (x : Fin 64) :
    (s.setV r b).pixel y x = s.pixel y x := rfl

/-! ## Memory in a state -/

/-- Bytes depend on the field `mem` only. -/
theorem State.readByte_congr {s t : State} (h : t.mem = s.mem) (a : Nat) : t.readByte a = s.readByte a := by
  unfold State.readByte; rw [h]

@[simp] theorem State.readByte_setV (s : State) (r : Reg) (b : Byte) (a : Nat) :
    (s.setV r b).readByte a = s.readByte a := rfl

@[simp] theorem State.readByte_setPixel (s : State) (y : Fin 32) (x : Fin 64) (b : Bool) (a : Nat) :
    (s.setPixel y x b).readByte a = s.readByte a := rfl

theorem State.readByte_writeByte (s : State) (a : Nat) (b : Byte) (c : Nat) (h : s.mem.wf = true) :
    (s.writeByte a b).readByte c = if c = a then b else s.readByte c :=
  Memory.read_write s.mem a b c h

theorem State.readByte_writeByte_of_ne (s : State) (a : Nat) (b : Byte) (c : Nat) (h : c ≠ a) :
    (s.writeByte a b).readByte c = s.readByte c :=
  Memory.read_write_of_ne s.mem a b c h

/-! ## Access checks and faults -/

theorem readCheck_none {a : Nat} : readCheck a = none ↔ a < memSize := by
  unfold readCheck; split <;> simp_all

theorem readCheck_some {a : Nat} {k : FaultKind} : readCheck a = some k ↔ memSize ≤ a ∧ k = .memOutOfRange := by
  unfold readCheck; split
  · simp; omega
  · simp only [Option.some.injEq]; constructor
    · rintro rfl; exact ⟨by omega, rfl⟩
    · rintro ⟨-, rfl⟩; rfl

theorem writeCheck_none {p : ReservedWritePolicy} {a : Nat} :
    writeCheck p a = none ↔ a < memSize ∧ (a < programBase → p = .write) := by
  unfold writeCheck
  cases p <;> by_cases h : a < memSize <;> by_cases h' : a < programBase <;> simp [h, h']

/-- No address fails iff each passes its check. -/
theorem firstFault_none {check : Nat → Option FaultKind} {as : List Nat} :
    firstFault check as = none ↔ ∀ a ∈ as, check a = none := by
  induction as with
  | nil => simp [firstFault]
  | cons a rest ih =>
    rw [firstFault]
    cases h : check a with
    | none => simp [h, ih]
    | some k => simp [h]

/-- The first failing address: it fails, and every address before it passes. -/
theorem firstFault_some {check : Nat → Option FaultKind} {as : List Nat} {k : FaultKind} {a : Nat}
    (h : firstFault check as = some (k, a)) :
    ∃ before after, as = before ++ a :: after ∧ check a = some k ∧ ∀ b ∈ before, check b = none := by
  induction as with
  | nil => simp [firstFault] at h
  | cons b rest ih =>
    rw [firstFault] at h
    cases hb : check b with
    | some k' =>
      rw [hb] at h
      simp only [Option.some.injEq, Prod.mk.injEq] at h
      obtain ⟨rfl, rfl⟩ := h
      exact ⟨[], rest, rfl, hb, by simp⟩
    | none =>
      rw [hb] at h
      obtain ⟨before, after, rfl, hk, hall⟩ := ih h
      refine ⟨b :: before, after, rfl, hk, ?_⟩
      intro c hc
      rcases List.mem_cons.mp hc with rfl | hc
      · exact hb
      · exact hall c hc

/-- An instruction with memory accesses either completes or takes the fault of its first failing address. -/
theorem State.accessing_cases {s done t : State} {check : Nat → Option FaultKind} {as : List Nat}
    (h : s.accessing check as done = .next t) :
    (firstFault check as = none ∧ t = done) ∨
      ∃ k a, firstFault check as = some (k, a) ∧ t = s.takeFault ⟨k, s.instrAddr, some s.opcode, a⟩ := by
  unfold State.accessing at h
  cases hf : firstFault check as with
  | none => rw [hf] at h; left; exact ⟨rfl, by simpa using h.symm⟩
  | some ka =>
    obtain ⟨k, a⟩ := ka
    rw [hf] at h
    right
    exact ⟨k, a, rfl, by simpa [State.raise] using h.symm⟩

theorem State.accessing_ok {s done : State} {check : Nat → Option FaultKind} {as : List Nat}
    (h : firstFault check as = none) : s.accessing check as done = .next done := by
  unfold State.accessing; rw [h]

theorem State.accessing_fault {s done : State} {check : Nat → Option FaultKind} {as : List Nat} {k : FaultKind} {a : Nat}
    (h : firstFault check as = some (k, a)) : s.accessing check as done = s.raise k a := by
  unfold State.accessing; rw [h]

theorem State.mem_addrs {s : State} {n a : Nat} : a ∈ s.addrs n ↔ ∃ k, k < n ∧ a = s.idx.toNat + k := by
  simp only [State.addrs, State.addr, List.mem_map, List.mem_range]
  constructor
  · rintro ⟨k, hk, rfl⟩; exact ⟨k, hk, rfl⟩
  · rintro ⟨k, hk, rfl⟩; exact ⟨k, hk, rfl⟩

/-! ## The loops of FX55 and FX65 -/

theorem State.storeRegs_eq (n : Nat) (s : State) : s.storeRegs n = { s with mem := (s.storeRegs n).mem } := by
  induction n with
  | zero => rfl
  | succ n ih => rw [State.storeRegs, ih]; rfl

theorem State.loadRegs_eq (n : Nat) (s : State) : s.loadRegs n = { s with v := (s.loadRegs n).v } := by
  induction n with
  | zero => rfl
  | succ n ih => rw [State.loadRegs, ih]; rfl

theorem State.storeRegs_wf (n : Nat) (s : State) (h : s.mem.wf = true) (ha : s.idx.toNat + n ≤ memSize) :
    (s.storeRegs n).mem.wf = true := by
  induction n with
  | zero => exact h
  | succ n ih =>
    rw [State.storeRegs, State.writeByte_mem]
    exact Memory.wf_write _ _ _ (ih (by omega)) (by unfold State.addr; omega)

/-- What the stores of FX55 leave at each address. -/
theorem State.readByte_storeRegs (n : Nat) (s : State) (h : s.mem.wf = true) (ha : s.idx.toNat + n ≤ memSize) (c : Nat) :
    (s.storeRegs n).readByte c =
      if s.idx.toNat ≤ c ∧ c < s.idx.toNat + n then s.getV (Fin.ofNat 16 (c - s.idx.toNat)) else s.readByte c := by
  induction n with
  | zero => rw [if_neg (by omega)]; rfl
  | succ n ih =>
    rw [State.storeRegs, State.readByte_writeByte _ _ _ _ (State.storeRegs_wf n s h (by omega)), ih (by omega)]
    unfold State.addr
    by_cases hc : c = s.idx.toNat + n
    · subst hc
      rw [if_pos rfl, if_pos (by omega), Nat.add_sub_cancel_left]
    · rw [if_neg hc]
      by_cases hlt : s.idx.toNat ≤ c ∧ c < s.idx.toNat + n
      · rw [if_pos hlt, if_pos (by omega)]
      · rw [if_neg hlt, if_neg (by omega)]

/-- What the loads of FX65 leave in each register. -/
theorem State.getV_loadRegs (n : Nat) (s : State) (hn : n ≤ 16) (r : Reg) :
    (s.loadRegs n).getV r = if r.val < n then s.readByte (s.idx.toNat + r.val) else s.getV r := by
  induction n with
  | zero => rw [if_neg (by omega)]; rfl
  | succ n ih =>
    rw [State.loadRegs, State.getV_setV, ih (by omega)]
    have hv : (Fin.ofNat 16 n).val = n := by simp [Fin.ofNat]; omega
    by_cases hr : r = Fin.ofNat 16 n
    · have : r.val = n := by rw [hr, hv]
      rw [if_pos hr, if_pos (by omega), this]; rfl
    · have : r.val ≠ n := fun e => hr (Fin.ext (by rw [hv, e]))
      rw [if_neg hr]
      by_cases hlt : r.val < n
      · rw [if_pos hlt, if_pos (by omega)]
      · rw [if_neg hlt, if_neg (by omega)]

/-! ## The loops of DXYN write V and FB only -/

theorem State.plot_eq (s : State) (y : Fin 32) (x : Fin 64) :
    s.plot y x = { s with v := (s.plot y x).v, fb := (s.plot y x).fb } := by
  unfold State.plot; split <;> rfl

theorem State.drawBits_eq (vx : Byte) (y : Fin 32) (b : Byte) (n : Nat) (s : State) :
    State.drawBits vx y b n s =
      { s with v := (State.drawBits vx y b n s).v, fb := (State.drawBits vx y b n s).fb } := by
  induction n with
  | zero => rfl
  | succ n ih =>
    simp only [State.drawBits]
    split
    · rw [State.plot_eq, ih]
    · exact ih

theorem State.drawRows_eq (vx vy : Byte) (n : Nat) (s : State) :
    State.drawRows vx vy n s =
      { s with v := (State.drawRows vx vy n s).v, fb := (State.drawRows vx vy n s).fb } := by
  induction n with
  | zero => rfl
  | succ n ih =>
    simp only [State.drawRows]
    rw [State.drawBits_eq, ih]

end Sys2Proof.Machine
end

