-- ==== Sys2Proof/Laws/Step.lean ====
section
/-! SUPPORT. What a cycle and a step can do, said once. -/

namespace Sys2Proof.Machine

/-- A cycle is a fetch fault, an unknown opcode's report, or the decoded instruction run on the fetched state. -/
theorem cycle_cases (s : State) :
    (4094 < s.pc.toNat ∧ cycle s = .next s.fetchFault) ∨
      (s.pc.toNat ≤ 4094 ∧ decodeWord s.fetchWord = none ∧ cycle s = .next s.fetched.reportUnknown) ∨
      ∃ i, s.pc.toNat ≤ 4094 ∧ decodeWord s.fetchWord = some i ∧ cycle s = exec i s.fetched := by
  unfold cycle lastFetch State.fetchBytes
  by_cases h : s.pc.toNat > 4094
  · left; exact ⟨h, if_pos h⟩
  · right
    rw [if_neg h, decode_cons_cons]
    cases hd : decodeWord s.fetchWord with
    | none =>
      left
      refine ⟨by omega, rfl, ?_⟩
      simp only [State.fetchWord] at hd
      rw [hd]
    | some i =>
      right
      refine ⟨i, by omega, rfl, ?_⟩
      simp only [State.fetchWord] at hd
      rw [hd]

/-- A step that answers a next state is an initialisation in Idle or one activity in Running. -/
theorem step_cases {s t : State} (h : step s = .next t) :
    (s.run = .idle ∧ ∃ rom, s.loader = some rom ∧ t = s.initialise rom) ∨
      (s.run = .running ∧ runActivity s.nextActivity s.dequeued = .next t) := by
  unfold step at h
  cases hr : s.run with
  | idle =>
    rw [hr] at h
    left
    refine ⟨rfl, ?_⟩
    simp only [idleStep] at h
    cases hl : s.loader with
    | none => rw [hl] at h; simp at h
    | some rom => rw [hl] at h; exact ⟨rom, rfl, by simpa using h.symm⟩
  | running => rw [hr] at h; right; exact ⟨rfl, h⟩
  | stopped => rw [hr] at h; simp at h

theorem step_running {s : State} (h : s.run = .running) : step s = runActivity s.nextActivity s.dequeued := by
  unfold step; rw [h]

/-- The address of the fetched instruction is where the fetch began. -/
@[simp] theorem State.fetched_instrAddr (s : State) : s.fetched.instrAddr = s.pc := by
  simp [State.instrAddr]

end Sys2Proof.Machine
end

