-- ==== Sys2Proof/Laws/Frame.lean ====
section
/-! SUPPORT. Frames: how they compose, the frame of each one-field update, and of each shared operation. -/

namespace Sys2Proof.Machine

theorem Part.same_rfl (s : State) (p : Part) : p.same s s := by cases p <;> simp [Part.same]

theorem Part.same_trans {s t u : State} {p : Part} (h : p.same s t) (h' : p.same t u) : p.same s u := by
  cases p <;> simp only [Part.same] at * <;> intros <;> simp [h, h']

theorem Frame.refl (L : List Part) (s : State) : Frame L s s := fun p _ => Part.same_rfl s p

theorem Frame.mono {L L' : List Part} {s t : State} (h : Frame L s t) (hL : L ⊆ L') : Frame L' s t :=
  fun p hp => h p fun hm => hp (hL hm)

theorem Frame.trans {L : List Part} {s t u : State} (h : Frame L s t) (h' : Frame L t u) : Frame L s u :=
  fun p hp => Part.same_trans (h p hp) (h' p hp)

/-- Frames add up. -/
theorem Frame.append {L L' : List Part} {s t u : State} (h : Frame L s t) (h' : Frame L' t u) : Frame (L ++ L') s u :=
  (h.mono (List.subset_append_left L L')).trans (h'.mono (List.subset_append_right L L'))

/-! ## One-field updates -/

theorem frame_v (s : State) (a : Vector Byte 16) : Frame [.v] s { s with v := a } := by
  intro p hp
  cases p <;> first | exact absurd (List.mem_singleton.mpr rfl) hp | simp [Part.same, State.pixel, State.readByte]

theorem frame_pc (s : State) (a : Word) : Frame [.pc] s { s with pc := a } := by
  intro p hp
  cases p <;> first | exact absurd (List.mem_singleton.mpr rfl) hp | simp [Part.same, State.getV, State.pixel, State.readByte]

theorem frame_idx (s : State) (a : Word) : Frame [.idx] s { s with idx := a } := by
  intro p hp
  cases p <;> first | exact absurd (List.mem_singleton.mpr rfl) hp | simp [Part.same, State.getV, State.pixel, State.readByte]

theorem frame_sp (s : State) (a : Fin 17) : Frame [.sp] s { s with sp := a } := by
  intro p hp
  cases p <;> first | exact absurd (List.mem_singleton.mpr rfl) hp | simp [Part.same, State.getV, State.pixel, State.readByte]

theorem frame_stack (s : State) (a : Vector Word 16) : Frame [.stack] s { s with stack := a } := by
  intro p hp
  cases p <;> first | exact absurd (List.mem_singleton.mpr rfl) hp | simp [Part.same, State.getV, State.pixel, State.readByte]

theorem frame_dt (s : State) (a : Byte) : Frame [.dt] s { s with dt := a } := by
  intro p hp
  cases p <;> first | exact absurd (List.mem_singleton.mpr rfl) hp | simp [Part.same, State.getV, State.pixel, State.readByte]

theorem frame_st (s : State) (a : Byte) : Frame [.st] s { s with st := a } := by
  intro p hp
  cases p <;> first | exact absurd (List.mem_singleton.mpr rfl) hp | simp [Part.same, State.getV, State.pixel, State.readByte]

theorem frame_key (s : State) (a : Keypad) : Frame [.key] s { s with key := a } := by
  intro p hp
  cases p <;> first | exact absurd (List.mem_singleton.mpr rfl) hp | simp [Part.same, State.getV, State.pixel, State.readByte]

theorem frame_fb (s : State) (a : FrameBuffer) : Frame [.fb] s { s with fb := a } := by
  intro p hp
  cases p <;> first | exact absurd (List.mem_singleton.mpr rfl) hp | simp [Part.same, State.getV, State.readByte]

theorem frame_opcode (s : State) (a : Word) : Frame [.opcode] s { s with opcode := a } := by
  intro p hp
  cases p <;> first | exact absurd (List.mem_singleton.mpr rfl) hp | simp [Part.same, State.getV, State.pixel, State.readByte]

theorem frame_mem (s : State) (a : Memory) : Frame [.mem] s { s with mem := a } := by
  intro p hp
  cases p <;> first | exact absurd (List.mem_singleton.mpr rfl) hp | simp [Part.same, State.getV, State.pixel]

theorem frame_run (s : State) (a : RunState) : Frame [.run] s { s with run := a } := by
  intro p hp
  cases p <;> first | exact absurd (List.mem_singleton.mpr rfl) hp | simp [Part.same, State.getV, State.pixel, State.readByte]

theorem frame_fault (s : State) (a : Option FaultRecord) : Frame [.fault] s { s with fault := a } := by
  intro p hp
  cases p <;> first | exact absurd (List.mem_singleton.mpr rfl) hp | simp [Part.same, State.getV, State.pixel, State.readByte]

theorem frame_diag (s : State) (a : List UnknownOpcode) : Frame [.diag] s { s with diag := a } := by
  intro p hp
  cases p <;> first | exact absurd (List.mem_singleton.mpr rfl) hp | simp [Part.same, State.getV, State.pixel, State.readByte]

theorem frame_report (s : State) (a : Option HostError) : Frame [.report] s { s with report := a } := by
  intro p hp
  cases p <;> first | exact absurd (List.mem_singleton.mpr rfl) hp | simp [Part.same, State.getV, State.pixel, State.readByte]

theorem frame_loader (s : State) (a : Option RomImage) : Frame [.loader] s { s with loader := a } := by
  intro p hp
  cases p <;> first | exact absurd (List.mem_singleton.mpr rfl) hp | simp [Part.same, State.getV, State.pixel, State.readByte]

theorem frame_agenda (s : State) (a : Agenda) : Frame [.agenda] s { s with agenda := a } := by
  intro p hp
  cases p <;> first | exact absurd (List.mem_singleton.mpr rfl) hp | simp [Part.same, State.getV, State.pixel, State.readByte]

theorem frame_draws (s : State) (a : Nat) : Frame [.draws] s { s with draws := a } := by
  intro p hp
  cases p <;> first | exact absurd (List.mem_singleton.mpr rfl) hp | simp [Part.same, State.getV, State.pixel, State.readByte]

/-! ## Shared operations -/

theorem frame_setV (s : State) (r : Reg) (b : Byte) : Frame [.v] s (s.setV r b) := frame_v s _

theorem frame_writeByte (s : State) (a : Nat) (b : Byte) : Frame [.mem] s (s.writeByte a b) := frame_mem s _

theorem frame_push (s : State) (w : Word) (h : s.sp.val < 16) : Frame [.stack, .sp] s (s.push w h) :=
  (frame_stack s (s.stack.set s.sp.val w)).append
    (frame_sp { s with stack := s.stack.set s.sp.val w } ⟨s.sp.val + 1, by omega⟩)

theorem frame_skipIf (s : State) (c : Bool) : Frame [.pc] s (s.skipIf c) := by
  cases c
  · exact Frame.refl _ s
  · exact frame_pc s _

theorem frame_takeFault (s : State) (r : FaultRecord) : Frame [.run, .fault] s (s.takeFault r) :=
  (frame_run s .stopped).append (frame_fault { s with run := .stopped } (s.fault.or (some r)))

theorem frame_logicFlag (s : State) : Frame [.v] s s.logicFlag := by
  obtain ⟨v, hv⟩ := State.logicFlag_eq s
  rw [hv]
  exact frame_v s v

theorem frame_writeFlagAndResult (s : State) (x : Reg) (f : Byte) (g : State → Byte) :
    Frame [.v] s (s.writeFlagAndResult x f g) := by
  obtain ⟨v, hv⟩ := State.writeFlagAndResult_eq s x f g
  rw [hv]
  exact frame_v s v

theorem frame_countDraw (s : State) : Frame [.draws] s s.countDraw := frame_draws s _

theorem frame_setIdxPast (s : State) (x : Reg) : Frame [.idx] s (s.setIdxPast x) := frame_idx s _

theorem frame_storeRegs (n : Nat) (s : State) : Frame [.mem] s (s.storeRegs n) := by
  rw [State.storeRegs_eq]
  exact frame_mem s _

theorem frame_loadRegs (n : Nat) (s : State) : Frame [.v] s (s.loadRegs n) := by
  rw [State.loadRegs_eq]
  exact frame_v s _

theorem frame_drawRows (vx vy : Byte) (n : Nat) (s : State) : Frame [.v, .fb] s (State.drawRows vx vy n s) := by
  rw [State.drawRows_eq]
  exact (frame_v s _).append (frame_fb { s with v := (State.drawRows vx vy n s).v } _)

/-- A fault taken by the executing instruction, in the statements' terms. -/
theorem faultTaken_takeFault (s : State) (kind : FaultKind) (info : Nat) :
    FaultTaken s (s.takeFault ⟨kind, s.instrAddr, some s.opcode, info⟩) (recordOf s kind info) :=
  ⟨rfl, rfl, frame_takeFault s _⟩

end Sys2Proof.Machine
end

