-- ==== Sys2Proof/Laws/PerInstr.lean ====
section
/-! SUPPORT. Per-instruction laws about instructions as syntax. Family TableRow: the word the encoder writes for an
instruction is a word of that instruction's row of the opcode table (30_encoding.md R77). -/

namespace Sys2Proof.Laws.TableRow

/-- The encoder's word matches the instruction's own row, and that row is one of the table. -/
def Statement (i : Instr) : Prop := encode i &&& i.row.mask = i.row.key ∧ i.row ∈ opcodeTable

/-- A packed F NNN word under the mask 0xF000. -/
theorem packNNN_mask (f : BitVec 4) (nnn : BitVec 12) : packNNN f nnn &&& 0xF000#16 = f ++ 0#12 := by
  unfold packNNN
  have e : (0xF000#16 : BitVec (4 + 12)) = 0xF#4 ++ 0#12 := by decide
  rw [e, BitVec.and_append, BitVec.and_zero]
  congr 1
  exact BitVec.and_allOnes

/-- A packed F X KK word under the mask 0xF000. -/
theorem packXKK_mask (f : BitVec 4) (x : Reg) (kk : Byte) : packXKK f x kk &&& 0xF000#16 = packXKK f 0 0 := by
  unfold packXKK
  have e : (0xF000#16 : BitVec (4 + 4 + 8)) = 0xF#4 ++ 0#4 ++ 0#8 := by decide
  rw [e, BitVec.and_append, BitVec.and_append, BitVec.and_zero, BitVec.and_zero]
  have e' : f &&& 0xF#4 = f := BitVec.and_allOnes
  rw [e']
  rfl

/-- A packed F X KK word under the mask 0xF0FF. -/
theorem packXKK_keyMask (f : BitVec 4) (x : Reg) (kk : Byte) :
    packXKK f x kk &&& 0xF0FF#16 = packXKK f 0 kk := by
  unfold packXKK
  have e : (0xF0FF#16 : BitVec (4 + 4 + 8)) = 0xF#4 ++ 0#4 ++ 0xFF#8 := by decide
  have e' : f &&& 0xF#4 = f := BitVec.and_allOnes
  have e'' : kk &&& 0xFF#8 = kk := BitVec.and_allOnes
  rw [e, BitVec.and_append, BitVec.and_append, BitVec.and_zero, e', e'']
  rfl

/-- A packed F X Y N word under the mask 0xF000. -/
theorem packXYN_mask (f : BitVec 4) (x y : Reg) (n : BitVec 4) : packXYN f x y n &&& 0xF000#16 = packXYN f 0 0 0 := by
  unfold packXYN
  have e : (0xF000#16 : BitVec (4 + 4 + 4 + 4)) = 0xF#4 ++ 0#4 ++ 0#4 ++ 0#4 := by decide
  have e' : f &&& 0xF#4 = f := BitVec.and_allOnes
  rw [e, BitVec.and_append, BitVec.and_append, BitVec.and_append, BitVec.and_zero, BitVec.and_zero, BitVec.and_zero, e']
  rfl

/-- A packed F X Y N word under the mask 0xF00F. -/
theorem packXYN_keyMask (f : BitVec 4) (x y : Reg) (n : BitVec 4) :
    packXYN f x y n &&& 0xF00F#16 = packXYN f 0 0 n := by
  unfold packXYN
  have e : (0xF00F#16 : BitVec (4 + 4 + 4 + 4)) = 0xF#4 ++ 0#4 ++ 0#4 ++ 0xF#4 := by decide
  have e' : f &&& 0xF#4 = f := BitVec.and_allOnes
  have e'' : n &&& 0xF#4 = n := BitVec.and_allOnes
  rw [e, BitVec.and_append, BitVec.and_append, BitVec.and_append, BitVec.and_zero, BitVec.and_zero, e', e'']
  rfl

theorem cls : Statement (.cls) := ⟨by decide, by decide⟩

theorem ret : Statement (.ret) := ⟨by decide, by decide⟩

theorem jp (nnn : BitVec 12) : Statement (.jp nnn) := ⟨(packNNN_mask _ _).trans rfl, by simp [Instr.row, opcodeTable]⟩

theorem call (nnn : BitVec 12) : Statement (.call nnn) := ⟨(packNNN_mask _ _).trans rfl, by simp [Instr.row, opcodeTable]⟩

theorem seImm (x : Reg) (kk : Byte) : Statement (.seImm x kk) := ⟨(packXKK_mask _ _ _).trans rfl, by simp [Instr.row, opcodeTable]⟩

theorem sneImm (x : Reg) (kk : Byte) : Statement (.sneImm x kk) := ⟨(packXKK_mask _ _ _).trans rfl, by simp [Instr.row, opcodeTable]⟩

theorem seReg (x : Reg) (y : Reg) : Statement (.seReg x y) := ⟨(packXYN_mask _ _ _ _).trans rfl, by simp [Instr.row, opcodeTable]⟩

theorem ldImm (x : Reg) (kk : Byte) : Statement (.ldImm x kk) := ⟨(packXKK_mask _ _ _).trans rfl, by simp [Instr.row, opcodeTable]⟩

theorem addImm (x : Reg) (kk : Byte) : Statement (.addImm x kk) := ⟨(packXKK_mask _ _ _).trans rfl, by simp [Instr.row, opcodeTable]⟩

theorem ldReg (x : Reg) (y : Reg) : Statement (.ldReg x y) := ⟨(packXYN_keyMask _ _ _ _).trans rfl, by simp [Instr.row, opcodeTable]⟩

theorem orReg (x : Reg) (y : Reg) : Statement (.orReg x y) := ⟨(packXYN_keyMask _ _ _ _).trans rfl, by simp [Instr.row, opcodeTable]⟩

theorem andReg (x : Reg) (y : Reg) : Statement (.andReg x y) := ⟨(packXYN_keyMask _ _ _ _).trans rfl, by simp [Instr.row, opcodeTable]⟩

theorem xorReg (x : Reg) (y : Reg) : Statement (.xorReg x y) := ⟨(packXYN_keyMask _ _ _ _).trans rfl, by simp [Instr.row, opcodeTable]⟩

theorem addReg (x : Reg) (y : Reg) : Statement (.addReg x y) := ⟨(packXYN_keyMask _ _ _ _).trans rfl, by simp [Instr.row, opcodeTable]⟩

theorem sub (x : Reg) (y : Reg) : Statement (.sub x y) := ⟨(packXYN_keyMask _ _ _ _).trans rfl, by simp [Instr.row, opcodeTable]⟩

theorem shr (x : Reg) (y : Reg) : Statement (.shr x y) := ⟨(packXYN_keyMask _ _ _ _).trans rfl, by simp [Instr.row, opcodeTable]⟩

theorem subn (x : Reg) (y : Reg) : Statement (.subn x y) := ⟨(packXYN_keyMask _ _ _ _).trans rfl, by simp [Instr.row, opcodeTable]⟩

theorem shl (x : Reg) (y : Reg) : Statement (.shl x y) := ⟨(packXYN_keyMask _ _ _ _).trans rfl, by simp [Instr.row, opcodeTable]⟩

theorem sneReg (x : Reg) (y : Reg) : Statement (.sneReg x y) := ⟨(packXYN_mask _ _ _ _).trans rfl, by simp [Instr.row, opcodeTable]⟩

theorem ldI (nnn : BitVec 12) : Statement (.ldI nnn) := ⟨(packNNN_mask _ _).trans rfl, by simp [Instr.row, opcodeTable]⟩

theorem jpV0 (nnn : BitVec 12) : Statement (.jpV0 nnn) := ⟨(packNNN_mask _ _).trans rfl, by simp [Instr.row, opcodeTable]⟩

theorem rnd (x : Reg) (kk : Byte) : Statement (.rnd x kk) := ⟨(packXKK_mask _ _ _).trans rfl, by simp [Instr.row, opcodeTable]⟩

theorem drw (x : Reg) (y : Reg) (n : Nat) : Statement (.drw x y n) := ⟨(packXYN_mask _ _ _ _).trans rfl, by simp [Instr.row, opcodeTable]⟩

theorem skp (x : Reg) : Statement (.skp x) := ⟨(packXKK_keyMask _ _ _).trans rfl, by simp [Instr.row, opcodeTable]⟩

theorem sknp (x : Reg) : Statement (.sknp x) := ⟨(packXKK_keyMask _ _ _).trans rfl, by simp [Instr.row, opcodeTable]⟩

theorem ldVxDT (x : Reg) : Statement (.ldVxDT x) := ⟨(packXKK_keyMask _ _ _).trans rfl, by simp [Instr.row, opcodeTable]⟩

theorem ldVxK (x : Reg) : Statement (.ldVxK x) := ⟨(packXKK_keyMask _ _ _).trans rfl, by simp [Instr.row, opcodeTable]⟩

theorem ldDT (x : Reg) : Statement (.ldDT x) := ⟨(packXKK_keyMask _ _ _).trans rfl, by simp [Instr.row, opcodeTable]⟩

theorem ldST (x : Reg) : Statement (.ldST x) := ⟨(packXKK_keyMask _ _ _).trans rfl, by simp [Instr.row, opcodeTable]⟩

theorem addI (x : Reg) : Statement (.addI x) := ⟨(packXKK_keyMask _ _ _).trans rfl, by simp [Instr.row, opcodeTable]⟩

theorem ldF (x : Reg) : Statement (.ldF x) := ⟨(packXKK_keyMask _ _ _).trans rfl, by simp [Instr.row, opcodeTable]⟩

theorem ldB (x : Reg) : Statement (.ldB x) := ⟨(packXKK_keyMask _ _ _).trans rfl, by simp [Instr.row, opcodeTable]⟩

theorem dump (x : Reg) : Statement (.dump x) := ⟨(packXKK_keyMask _ _ _).trans rfl, by simp [Instr.row, opcodeTable]⟩

theorem load (x : Reg) : Statement (.load x) := ⟨(packXKK_keyMask _ _ _).trans rfl, by simp [Instr.row, opcodeTable]⟩

end Sys2Proof.Laws.TableRow
end

