-- ==== Sys2Proof/Laws/Run.lean ====
section
/-! SUPPORT. The schedule: what an agenda gives next, that any activity may come next in Running, and infinite runs that
follow a given sequence of activities. -/

namespace Sys2Proof.Machine

/-! ## The agenda -/

@[simp] theorem Agenda.next_cons (act : Activity) (rest : List Activity) (n : Nat) :
    Agenda.next ⟨act :: rest, n⟩ = act := rfl

@[simp] theorem Agenda.next_nil (n : Nat) : Agenda.next ⟨[], n⟩ = Config.schedule n := rfl

@[simp] theorem Agenda.tail_cons (act : Activity) (rest : List Activity) (n : Nat) :
    Agenda.tail ⟨act :: rest, n⟩ = ⟨rest, n⟩ := rfl

@[simp] theorem Agenda.tail_nil (n : Nat) : Agenda.tail ⟨[], n⟩ = ⟨[], n + 1⟩ := rfl

@[simp] theorem Agenda.next_push (g : Agenda) (act : Activity) : (g.push act).next = act := rfl

@[simp] theorem Agenda.tail_push (g : Agenda) (act : Activity) : (g.push act).tail = g := rfl

/-- In Running, any activity may come next (R237). -/
theorem step_push {s : State} (act : Activity) (h : s.run = .running) :
    step { s with agenda := s.agenda.push act } = runActivity act s :=
  step_running (s := { s with agenda := s.agenda.push act }) h

/-! ## Runs -/

/-- The run from `s` in which the host fixes the activities of `sched` one by one. A step that answers no next state leaves
the run where it is. -/
def follow (sched : Nat → Activity) (s : State) : Nat → State
  | 0 => { s with agenda := { s.agenda with listed := [sched 0] } }
  | n + 1 =>
    match step (follow sched s n) with
    | .next t => { t with agenda := { t.agenda with listed := [sched (n + 1)] } }
    | .fault _ => follow sched s n
    | .refused _ => follow sched s n

/-- Where the activities of `sched` keep a property and never end the run, the sequence is an infinite run, and it takes
exactly those activities. -/
theorem follow_isRun {sched : Nat → Activity} {s : State} {P : State → Prop}
    (h0 : P s) (hagenda : ∀ s g, P s → P { s with agenda := g })
    (hstep : ∀ n s, P s → s.nextActivity = sched n → ∃ t, step s = .next t ∧ P t) :
    IsRun (follow sched s) ∧ ∀ n, P (follow sched s n) ∧ (follow sched s n).nextActivity = sched n := by
  have next : ∀ n t, step (follow sched s n) = .next t →
      follow sched s (n + 1) = { t with agenda := { t.agenda with listed := [sched (n + 1)] } } := by
    intro n t h
    rw [follow, h]
  have inv : ∀ n, P (follow sched s n) ∧ (follow sched s n).nextActivity = sched n := by
    intro n
    induction n with
    | zero => exact ⟨hagenda s _ h0, rfl⟩
    | succ n ih =>
      obtain ⟨t, ht, hP⟩ := hstep n _ ih.1 ih.2
      rw [next n t ht]
      exact ⟨hagenda t _ hP, rfl⟩
  refine ⟨fun n => ?_, inv⟩
  obtain ⟨t, ht, -⟩ := hstep n _ (inv n).1 (inv n).2
  exact ⟨t, [sched (n + 1)], ht, next n t ht⟩

/-- A schedule that takes each of the four activities again and again is weakly fair (R237). -/
theorem weaklyFair_of_schedule {sched : Nat → Activity} {r : Nat → State} (h : ∀ n, (r n).nextActivity = sched n)
    (fair : ∀ kind n, ∃ m, n ≤ m ∧ activityKind (sched m) = kind) : WeaklyFair r := by
  intro kind n
  obtain ⟨m, hm, hk⟩ := fair kind n
  exact ⟨m, hm, by rw [h m, hk]⟩

end Sys2Proof.Machine
end

