-- ==== Sys2Proof/Tests/Slice0.lean ====
section
/-! SUPPORT. The model's own tests. Expected values are those of spec/95_test_vectors.md (its section in each docstring) or
of the example in the instruction's rule, under the default parameters of R8 unless a test sets one. Then one witness for
each statement that has hypotheses. -/

namespace Sys2Proof.Tests

open Sys2Proof.Machine

/-! ## Well-formedness -/

/-- The one check of `wellFormed`: a sprite height that no 4-bit field holds is refused (R72, R191). -/
theorem test_wellFormed_refuses_height_16 : (Instr.drw 0 0 16).wellFormed = false := by decide

theorem test_wellFormed_accepts_height_15 : (Instr.drw 0 0 15).wellFormed = true := by decide

/-! ## Decoding: words written bit by bit as F X Y N from R70, R75 -/

theorem test_decode_family_0 : decodeWord 0b0000000011100000 = some .cls ∧ decodeWord 0b0000000011101110 = some .ret ∧
    decodeWord 0b0000000000000000 = none ∧ decodeWord 0b0000000100100011 = none ∧ decodeWord 0b0000000011100001 = none := by
  decide

theorem test_decode_families_1_2 : decodeWord 0b0001001000110100 = some (.jp 0x234) ∧
    decodeWord 0b0010101010111100 = some (.call 0xABC) := by decide

theorem test_decode_families_3_4_5_9 : decodeWord 0b0011001101000010 = some (.seImm 3 0x42) ∧
    decodeWord 0b0100001101000001 = some (.sneImm 3 0x41) ∧ decodeWord 0b0101000100100000 = some (.seReg 1 2) ∧
    decodeWord 0b0101000100100111 = some (.seReg 1 2) ∧ decodeWord 0b1001000100100101 = some (.sneReg 1 2) := by decide

theorem test_decode_families_6_7_C : decodeWord 0b0110101010011100 = some (.ldImm 10 0x9C) ∧
    decodeWord 0b0111000111111111 = some (.addImm 1 0xFF) ∧ decodeWord 0b1100000111110000 = some (.rnd 1 0xF0) := by decide

theorem test_decode_family_8_low : decodeWord 0b1000000100100000 = some (.ldReg 1 2) ∧
    decodeWord 0b1000000100100001 = some (.orReg 1 2) ∧ decodeWord 0b1000000100100010 = some (.andReg 1 2) ∧
    decodeWord 0b1000000100100011 = some (.xorReg 1 2) ∧ decodeWord 0b1000000100100100 = some (.addReg 1 2) := by decide

theorem test_decode_family_8_high : decodeWord 0b1000000100100101 = some (.sub 1 2) ∧
    decodeWord 0b1000000100000110 = some (.shr 1 0) ∧ decodeWord 0b1000000100100111 = some (.subn 1 2) ∧
    decodeWord 0b1000000100101110 = some (.shl 1 2) ∧ decodeWord 0b1000000100101000 = none ∧
    decodeWord 0b1000000000001111 = none := by decide

theorem test_decode_families_A_B_D : decodeWord 0b1010001100000000 = some (.ldI 0x300) ∧
    decodeWord 0b1011001100000000 = some (.jpV0 0x300) ∧ decodeWord 0b1101000100100101 = some (.drw 1 2 5) := by decide

theorem test_decode_family_E : decodeWord 0b1110000110011110 = some (.skp 1) ∧
    decodeWord 0b1110000110100001 = some (.sknp 1) ∧ decodeWord 0b1110000110100010 = none := by decide

theorem test_decode_family_F_low : decodeWord 0b1111001100000111 = some (.ldVxDT 3) ∧
    decodeWord 0b1111001000001010 = some (.ldVxK 2) ∧ decodeWord 0b1111000000010101 = some (.ldDT 0) ∧
    decodeWord 0b1111010000011000 = some (.ldST 4) ∧ decodeWord 0b1111001000011110 = some (.addI 2) := by decide

theorem test_decode_family_F_high : decodeWord 0b1111000000101001 = some (.ldF 0) ∧
    decodeWord 0b1111001100110011 = some (.ldB 3) ∧ decodeWord 0b1111001001010101 = some (.dump 2) ∧
    decodeWord 0b1111000101100101 = some (.load 1) ∧ decodeWord 0b1111000100000000 = none ∧
    decodeWord 0b1111000000011111 = none := by decide

/-- The first byte is the high one; one byte is no instruction (R57, R70). -/
theorem test_decode_bytes : decode [0x12, 0x34, 0x56] = .instr (.jp 0x234) [0x56] ∧ decode [0x12] = .rejected .truncated := by
  decide

/-- Ignored bits assemble as zero (R83). -/
theorem test_encode : encode (.seReg 1 2) = 0x5120 ∧ encode .ret = 0x00EE ∧ encode (.drw 1 2 5) = 0xD125 ∧
    encode (.dump 2) = 0xF255 := by decide

theorem test_decodeTableWord : decodeTableWord 16 0x8124 = some (.addReg 1 2) ∧ decodeTableWord 16 0x8128 = none := by decide

/-! ## Small states -/

/-- The reset state with some registers set. -/
def regs (l : List (Reg × Byte)) : State := l.foldl (fun s p => s.setV p.1 p.2) State.reset

/-- Bytes put in memory. -/
def poke (s : State) (a : Nat) (bs : List Byte) : State := { s with mem := s.mem.writeAll a bs }

/-- Some keys pressed. -/
def keys (l : List Reg) : State := { State.reset with key := Vector.ofFn fun k => decide (k ∈ l) }

/-- Some pixels lit, as (row, column). -/
def lit (s : State) (l : List (Fin 32 × Fin 64)) : State := l.foldl (fun t p => t.setPixel p.1 p.2 true) s

/-- The state's parameters under FLAG_ORDER = flag_last. -/
def flagLast (s : State) : State := { s with params := { s.params with flagOrder := .flagLast } }

/-- The reset state with the CPU's turn fixed as the next activity. -/
def ready : State := { State.reset with agenda := ⟨[.cpu], 0⟩ }

/-- The state after one step that runs the word `w` placed at `pc`. -/
def runWord (w : Nat) (s : State) : Option State :=
  match step (s.withFetchWord 16 w) with
  | .next t => some t
  | _ => none

/-- VX and VF after the word. -/
def xf (w : Nat) (x : Reg) (s : State) : Option (Byte × Byte) := (runWord w s).map fun t => (t.getV x, t.getV VF)

/-- `pc` after the word. -/
def pcAfter (w : Nat) (s : State) : Option Word := (runWord w s).map (·.pc)

/-- The fault recorded by the word. -/
def faultOf (w : Nat) (s : State) : Option (Option FaultRecord) := (runWord w s).map (·.fault)

/-- The lit cells of the rows and columns given. -/
def litIn (rows : List (Fin 32)) (cols : List (Fin 64)) (s : State) : List (Nat × Nat) :=
  rows.flatMap fun y => (cols.filter fun x => s.pixel y x).map fun x => (y.val, x.val)

/-! ## The cycle (section 2.2) -/

theorem test_fetch_big_endian : (runWord 0x1234 State.reset).map (fun t => (t.opcode, t.pc)) = some (0x1234, 0x234) := by decide

theorem test_fetch_highest : pcAfter 0x1FFE { State.reset with pc := 0xFFE } = some 0xFFE := by decide

theorem test_fetch_beyond : (runWord 0 { State.reset with pc := 0xFFF }).map (fun t => (t.pc, t.run, t.fault)) =
    some (0xFFF, .stopped, some ⟨.memOutOfRange, 0xFFF, none, 0xFFF⟩) := by decide

theorem test_fetch_odd : (runWord 0x600A { State.reset with pc := 0x201 }).map (fun t => (t.getV 0, t.pc)) =
    some (0x0A, 0x203) := by decide

theorem test_unknown_opcode : (runWord 0x8128 State.reset).map (fun t => (t.diag, t.pc, t.run, t.fault)) =
    some ([⟨0x200, 0x8128⟩], 0x202, .running, none) := by decide

/-- The first CPU cycle from reset, with an empty ROM: opcode 0x0000, unknown (R262). -/
theorem test_cycle_from_reset : (match step ready with | .next t => some (t.diag, t.pc) | _ => none) =
    some ([⟨0x200, 0x0000⟩], 0x202) := by decide

/-! ## Control flow (section 2.3) -/

theorem test_jp : pcAfter 0x1300 { State.reset with pc := 0x300 } = some 0x300 := by decide

theorem test_call : (runWord 0x2208 { State.reset with pc := 0x204 }).map (fun t => (t.stack[0], t.sp, t.pc)) =
    some (0x206, 1, 0x208) := by decide

theorem test_call_full : (runWord 0x2500 { State.reset with pc := 0x400, sp := 16 }).map (fun t => (t.fault, t.pc, t.sp)) =
    some (some ⟨.stackOverflow, 0x400, some 0x2500, 16⟩, 0x402, 16) := by decide

theorem test_ret : (runWord 0x00EE { State.reset with pc := 0x20C, sp := 1, stack := State.reset.stack.set 0 0x206 }).map
    (fun t => (t.sp, t.pc, t.stack[0])) = some (0, 0x206, 0x206) := by decide

theorem test_ret_empty : (runWord 0x00EE State.reset).map (fun t => (t.fault, t.pc, t.run)) =
    some (some ⟨.stackUnderflow, 0x200, some 0x00EE, 0⟩, 0x202, .stopped) := by decide

theorem test_seImm : pcAfter 0x3342 (regs [(3, 0x42)]) = some 0x204 ∧ pcAfter 0x3341 (regs [(3, 0x42)]) = some 0x202 := by
  decide

theorem test_sneImm : pcAfter 0x4341 (regs [(3, 0x42)]) = some 0x204 ∧ pcAfter 0x4342 (regs [(3, 0x42)]) = some 0x202 := by
  decide

theorem test_seReg : pcAfter 0x5127 (regs [(1, 7), (2, 7)]) = some 0x204 ∧ pcAfter 0x5120 (regs [(1, 7), (2, 8)]) = some 0x202 := by
  decide

theorem test_sneReg : pcAfter 0x9125 (regs [(1, 1), (2, 2)]) = some 0x204 ∧ pcAfter 0x9110 (regs [(1, 1)]) = some 0x202 := by
  decide

theorem test_jpV0 : pcAfter 0xB300 (regs [(0, 0x04)]) = some 0x304 ∧ pcAfter 0xBFFF (regs [(0, 0xFF)]) = some 0x10FE := by
  decide

/-! ## Arithmetic and logic (sections 1 and 2.4) -/

theorem test_ldImm : xf 0x6AFF 10 State.reset = some (0xFF, 0) := by decide

theorem test_addImm : xf 0x7101 1 (regs [(1, 0xFF), (15, 0x55)]) = some (0x00, 0x55) := by decide

theorem test_ldReg : xf 0x8120 1 (regs [(1, 3), (2, 9)]) = some (9, 0) := by decide

theorem test_orReg : xf 0x8121 1 (regs [(1, 0xF0), (2, 0x0F), (15, 0x77)]) = some (0xFF, 0x77) := by decide

theorem test_orReg_reset : xf 0x8121 1 { regs [(1, 0xF0), (2, 0x0F), (15, 0x77)] with
    params := { defaultParams with logicVF := .reset } } = some (0xFF, 0) := by decide

theorem test_andReg : xf 0x8122 1 (regs [(1, 0xF0), (2, 0x3C)]) = some (0x30, 0) := by decide

theorem test_xorReg : xf 0x8123 1 (regs [(1, 0xFF), (2, 0x0F)]) = some (0xF0, 0) := by decide

theorem test_addReg : xf 0x8124 1 (regs [(1, 0xA0), (2, 0xB2)]) = some (0x52, 1) ∧
    xf 0x8124 1 (regs [(1, 0x0F), (2, 0xAF)]) = some (0xBE, 0) := by decide

theorem test_addReg_VF : xf 0x8F14 15 (regs [(15, 0x80), (1, 0x90)]) = some (0x10, 0x10) ∧
    xf 0x8F14 15 (flagLast (regs [(15, 0x80), (1, 0x90)])) = some (1, 1) := by decide

theorem test_sub : xf 0x8125 1 (regs [(1, 0xA0), (2, 0xB2)]) = some (0xEE, 0) ∧
    xf 0x8125 1 (regs [(1, 0xF0), (2, 0xAF)]) = some (0x41, 1) ∧ xf 0x8125 1 (regs [(1, 5), (2, 5)]) = some (0, 0) := by decide

theorem test_sub_VF : xf 0x81F5 1 (regs [(1, 0x10), (15, 0x05)]) = some (0x0F, 1) ∧
    xf 0x81F5 1 (flagLast (regs [(1, 0x10), (15, 0x05)])) = some (0x0B, 1) ∧
    xf 0x8F25 15 (regs [(15, 0x10), (2, 0x05)]) = some (0xFC, 0xFC) := by decide

theorem test_shr : xf 0x8106 1 (regs [(1, 0x01)]) = some (0x00, 1) ∧ xf 0x8126 1 (regs [(1, 0xFF), (2, 0)]) = some (0x7F, 1) := by
  decide

theorem test_shr_VF : xf 0x8F06 15 (regs [(15, 0x03)]) = some (0, 0) ∧
    xf 0x8F06 15 (flagLast (regs [(15, 0x03)])) = some (1, 1) := by decide

theorem test_subn : xf 0x8127 1 (regs [(1, 0x01), (2, 0x03)]) = some (0x02, 1) ∧
    xf 0x8127 1 (regs [(1, 0x03), (2, 0x01)]) = some (0xFE, 0) := by decide

theorem test_subn_VF : xf 0x8F27 15 (regs [(15, 0x01), (2, 0x03)]) = some (0x02, 0x02) ∧
    xf 0x8F27 15 (flagLast (regs [(15, 0x01), (2, 0x03)])) = some (1, 1) := by decide

theorem test_shl : xf 0x810E 1 (regs [(1, 0x81)]) = some (0x02, 1) ∧ xf 0x810E 1 (regs [(1, 0x7F)]) = some (0xFE, 0) := by
  decide

theorem test_shl_VF : xf 0x8F0E 15 (regs [(15, 0x80)]) = some (0x02, 0x02) ∧
    xf 0x8F0E 15 (flagLast (regs [(15, 0x80)])) = some (1, 1) := by decide

/-- `C100` gives 0 whatever byte is drawn. -/
theorem test_rnd_mask_zero : (match exec (.rnd 1 0) State.reset with | .next t => some (t.getV 1) | _ => none) = some 0 := by
  simp [exec, execRnd, State.getV, State.setV, State.countDraw]

/-! ## Index register and memory (sections 1 and 2.5) -/

theorem test_ldI : (runWord 0xAFFF State.reset).map (·.idx) = some 0xFFF := by decide

theorem test_addI : (runWord 0xF01E { regs [(0, 1)] with idx := 0xFFF }).map (fun t => (t.idx, t.getV VF)) = some (0x1000, 0) ∧
    (runWord 0xF01E { regs [(0, 1)] with idx := 0xFFFF }).map (·.idx) = some 0 := by decide

theorem test_ldF : (runWord 0xF029 (regs [(0, 5)])).map (·.idx) = some 0x069 ∧
    (runWord 0xF029 (regs [(0, 0xFF)])).map (·.idx) = some 0x54B := by decide

theorem test_ldB : (runWord 0xF333 { regs [(3, 123)] with idx := 0x300 }).map
    (fun t => (t.readByte 0x300, t.readByte 0x301, t.readByte 0x302, t.idx)) = some (1, 2, 3, 0x300) := by decide

theorem test_ldB_faults : faultOf 0xF133 { regs [(1, 7)] with idx := 0xFFE } =
      some (some ⟨.memOutOfRange, 0x200, some 0xF133, 0x1000⟩) ∧
    faultOf 0xF133 { regs [(1, 7)] with idx := 0x1FE } = some (some ⟨.reservedWrite, 0x200, some 0xF133, 0x1FE⟩) := by decide

/-- Under RESERVED_WRITE_POLICY = write the store is performed. -/
theorem test_ldB_reserved_write : (runWord 0xF133 { regs [(1, 255)] with
      idx := 0x1FD, params := { defaultParams with reservedWrite := .write } }).map
    (fun t => (t.readByte 0x1FD, t.readByte 0x1FE, t.readByte 0x1FF, t.fault)) = some (2, 5, 5, none) := by decide

theorem test_dump : (runWord 0xF255 { regs [(0, 0x11), (1, 0x22), (2, 0x33)] with idx := 0x400 }).map
    (fun t => (t.readByte 0x400, t.readByte 0x401, t.readByte 0x402, t.idx)) = some (0x11, 0x22, 0x33, 3) := by decide

theorem test_dump_faults : faultOf 0xF155 { State.reset with idx := 0xFFF } =
      some (some ⟨.memOutOfRange, 0x200, some 0xF155, 0x1000⟩) ∧
    faultOf 0xF155 { State.reset with idx := 0x1FF } = some (some ⟨.reservedWrite, 0x200, some 0xF155, 0x1FF⟩) := by decide

theorem test_load : (runWord 0xF265 { poke State.reset 0x300 [1, 5, 6] with idx := 0x300 }).map
    (fun t => (t.getV 0, t.getV 1, t.getV 2, t.idx)) = some (1, 5, 6, 3) := by decide

/-- A load of the font's first byte, and a load past the end of memory. -/
theorem test_load_edges : (runWord 0xF065 { State.reset with idx := 0x050 }).map (·.getV 0) = some 0xF0 ∧
    faultOf 0xF165 { State.reset with idx := 0xFFF } = some (some ⟨.memOutOfRange, 0x200, some 0xF165, 0x1000⟩) := by decide

/-! ## Graphics (sections 1 and 2.6) -/

theorem test_cls : (runWord 0x00E0 (lit State.reset [(0, 1), (31, 63)])).map
    (litIn [0, 31] [0, 1, 63]) = some [] := by decide

set_option maxRecDepth 4000 in
/-- Vector S7 as corrected by conflict C2: column 63, then 0 to 6. -/
theorem test_drw_wraps : (runWord 0xD011 { poke (regs [(0, 63), (1, 0)]) 0x300 [0xFF] with idx := 0x300 }).map
    (fun t => (litIn [0] [0, 1, 5, 6, 7, 62, 63] t, t.getV VF)) =
      some ([(0, 0), (0, 1), (0, 5), (0, 6), (0, 63)], 0) := by decide

set_option maxRecDepth 4000 in
/-- A collision: 0xC0 over a lit cell of column 1. -/
theorem test_drw_collides : (runWord 0xD011 { lit (poke (regs [(15, 7)]) 0x300 [0xC0]) [(0, 1)] with idx := 0x300 }).map
    (fun t => (litIn [0] [0, 1, 2] t, t.getV VF)) = some ([(0, 0)], 1) := by decide

set_option maxRecDepth 4000 in
/-- Rows wrap: two rows from row 31. -/
theorem test_drw_rows_wrap : (runWord 0xD012 { poke (regs [(0, 0), (1, 31)]) 0x300 [0x80, 0x80] with idx := 0x300 }).map
    (litIn [0, 1, 31] [0, 1]) = some [(0, 0), (31, 0)] := by decide

theorem test_drw_faults : (runWord 0xD013 { regs [(15, 7)] with idx := 0xFFE }).map (fun t => (t.fault, t.getV VF)) =
    some (some ⟨.memOutOfRange, 0x200, some 0xD013, 0x1000⟩, 7) := by decide

set_option maxRecDepth 4000 in
/-- `DF11` with VF = 5, under both values of DRAW_COORD_READ. -/
theorem test_drw_coord_VF :
    (runWord 0xDF11 { poke (regs [(15, 5)]) 0x300 [0x80] with idx := 0x300 }).map (litIn [0] [0, 5]) = some [(0, 5)] ∧
    (runWord 0xDF11 { poke (regs [(15, 5)]) 0x300 [0x80] with
      idx := 0x300, params := { defaultParams with drawCoordRead := .afterVFReset } }).map (litIn [0] [0, 5]) =
      some [(0, 0)] := by decide

/-! ## Keypad and timers (section 2.7) -/

theorem test_skp : pcAfter 0xE19E ((keys [7]).setV 1 7) = some 0x204 ∧ pcAfter 0xE19E (regs [(1, 7)]) = some 0x202 := by decide

theorem test_sknp : pcAfter 0xE1A1 (regs [(1, 7)]) = some 0x204 ∧ pcAfter 0xE1A1 ((keys [7]).setV 1 7) = some 0x202 := by decide

theorem test_skp_index : faultOf 0xE19E (regs [(1, 0x10)]) = some (some ⟨.keyIndexOutOfRange, 0x200, some 0xE19E, 0x10⟩) ∧
    pcAfter 0xE19E { (keys [0]).setV 1 0x10 with params := { defaultParams with keyIndex := .lowNibble } } = some 0x204 := by
  decide

theorem test_ldVxDT : xf 0xF307 3 { State.reset with dt := 0x3C } = some (0x3C, 0) := by decide

theorem test_ldVxK_waits : (runWord 0xF20A { State.reset with pc := 0x20A }).map (fun t => (t.pc, t.getV 2)) =
    some (0x20A, 0) := by decide

theorem test_ldVxK : (runWord 0xF20A (keys [7])).map (fun t => (t.pc, t.getV 2)) = some (0x202, 7) := by decide

theorem test_ldVxK_tiebreak :
    (runWord 0xF50A { keys [3, 9] with params := { defaultParams with keyTiebreak := .lowest } }).map (·.getV 5) = some 3 ∧
    (runWord 0xF50A { keys [3, 9] with params := { defaultParams with keyTiebreak := .highest } }).map (·.getV 5) = some 9 := by
  decide

theorem test_ldDT : (runWord 0xF015 (regs [(0, 5)])).map (·.dt) = some 5 := by decide

theorem test_ldST : (runWord 0xF418 (regs [(4, 2)])).map (fun t => (t.st, t.tone)) = some (2, true) := by decide

/-! ## The scheduler, initialisation -/

/-- One step of a state whose next activity is given. -/
def stepWith (act : Activity) (s : State) : Option State :=
  match step { s with agenda := s.agenda.push act } with
  | .next t => some t
  | _ => none

theorem test_timer_tick : (stepWith .timer { State.reset with dt := 3, st := 1 }).map (fun t => (t.dt, t.st, t.tone)) =
    some (2, 0, false) ∧ (stepWith .timer State.reset).map (fun t => (t.dt, t.st)) = some (0, 0) := by decide

theorem test_input_refresh : (stepWith (.input (keys [2]).key false) (keys [5])).map (fun t => (t.key[2], t.key[5], t.run)) =
    some (true, false, .running) := by decide

theorem test_quit : (stepWith (.input (keys []).key true) State.reset).map (·.run) = some .stopped := by decide

theorem test_initialise : (match step { State.created with loader := some (.image [0x12, 0x34]) } with
    | .next t => some (t.pc, t.run, t.readByte 0x200, t.readByte 0x201, t.readByte 0x09F)
    | _ => none) = some (0x200, .running, 0x12, 0x34, 0x80) := by decide

/-! ## Witnesses: states and operands that meet the hypotheses of each statement -/

/-- A machine with the word 0x8124 at 0x200. -/
def atAdd : State := poke ready 0x200 [0x81, 0x24]

/-- The same with I set. -/
def atI (i : Word) : State := { atAdd with idx := i }

/-- The same under RESERVED_WRITE_POLICY = write. -/
def writable (i : Word) : State := { atI i with params := { defaultParams with reservedWrite := .write } }

/-- A machine whose activity `act` comes next. -/
def withAct (act : Activity) : State := { ready with agenda := ⟨[act], 0⟩, dt := 3, st := 0 }

/-- A machine halted at 0x200 (R265 b). -/
def halted : State := poke { ready with dt := 3, st := 1 } 0x200 [0x12, 0x00]

/-- A machine halted at the last address that can be fetched. -/
def haltedLast : State := { poke ready 0xFFE [0x1F, 0xFE] with pc := 0xFFE }

theorem witness_DecodeAfterEncodeIsIdentity : (Instr.drw 15 15 15).wellFormed = true ∧ Instr.cls.wellFormed = true := by decide

theorem witness_EncodeAfterDecodeClearsIgnoredBits : decodeWord 0x5127 = some (.seReg 1 2) := by decide

theorem witness_DecoderAgreesWithOpcodeTable : decodeWord 0x0FEE = some .ret ∧ (⟨0x00EE, 0xF0FF⟩ : Row) ∈ opcodeTable := by
  decide

/-- Its hypotheses at the highest legal fetch address. -/
theorem witness_StepRunsTheDecodedInstruction : haltedLast.run = .running ∧ haltedLast.nextActivity = .cpu ∧
    haltedLast.pc.toNat ≤ 4094 ∧
    decode [haltedLast.readByte haltedLast.pc.toNat, haltedLast.readByte (haltedLast.pc.toNat + 1)] =
      .instr (.jp 0xFFE) [] := by decide

theorem witness_StepRunsTheDecodedInstruction_add :
    decode [atAdd.readByte atAdd.pc.toNat, atAdd.readByte (atAdd.pc.toNat + 1)] = .instr (.addReg 1 2) [] := by decide

theorem witness_FetchBeyondMemoryFaults : ({ ready with pc := 4095 } : State).nextActivity = .cpu ∧
    4094 < ({ ready with pc := 4095 } : State).pc.toNat := by decide

theorem witness_UnknownOpcodeIsReportedAndSkipped : ready.run = .running ∧ ready.nextActivity = .cpu ∧
    ready.pc.toNat ≤ 4094 ∧ decodeWord (ready.readByte ready.pc.toNat ++ ready.readByte (ready.pc.toNat + 1)) = none := by
  decide

/-- A word of each `DecodesAs` clause, with operand bits that are not zero: key and mask as R75 and R77 give them. -/
theorem witness_DecodesAs_low : 0x1FFF#16 &&& 0xF000#16 = 0x1000#16 ∧ 0x3A42#16 &&& 0xF000#16 = 0x3000#16 ∧ 0x4A42#16 &&& 0xF000#16 = 0x4000#16 ∧
    0x51F7#16 &&& 0xF000#16 = 0x5000#16 ∧ 0x6AFF#16 &&& 0xF000#16 = 0x6000#16 ∧ 0x7AFF#16 &&& 0xF000#16 = 0x7000#16 ∧
    0x0FE0#16 &&& 0xF0FF#16 = 0x00E0#16 := by decide

theorem witness_DecodesAs_8_to_A : 0x8F10#16 &&& 0xF00F#16 = 0x8000#16 ∧ 0x8F14#16 &&& 0xF00F#16 = 0x8004#16 ∧ 0x81F5#16 &&& 0xF00F#16 = 0x8005#16 ∧
    0x8F06#16 &&& 0xF00F#16 = 0x8006#16 ∧ 0x8F27#16 &&& 0xF00F#16 = 0x8007#16 ∧ 0x8F0E#16 &&& 0xF00F#16 = 0x800E#16 ∧
    0x9F15#16 &&& 0xF000#16 = 0x9000#16 ∧ 0xAFFF#16 &&& 0xF000#16 = 0xA000#16 := by decide

theorem witness_DecodesAs_F : 0xFF07#16 &&& 0xF0FF#16 = 0xF007#16 ∧ 0xFF15#16 &&& 0xF0FF#16 = 0xF015#16 ∧ 0xFF18#16 &&& 0xF0FF#16 = 0xF018#16 ∧
    0xFF29#16 &&& 0xF0FF#16 = 0xF029#16 ∧ 0xFF55#16 &&& 0xF0FF#16 = 0xF055#16 ∧ 0xFF65#16 &&& 0xF0FF#16 = 0xF065#16 := by decide

/-- The last push that has room. -/
theorem witness_CallPushesReturnAddress : ({ State.reset with sp := 15 } : State).sp.val < 16 := by decide

/-- The first and the last entry. -/
theorem witness_ReturnPopsReturnAddress : ({ State.reset with sp := 1 } : State).sp.val = (0 : Fin 16).val + 1 ∧
    ({ State.reset with sp := 16 } : State).sp.val = (15 : Fin 16).val + 1 := by decide

theorem witness_StackOverflowAndUnderflowFault : ({ State.reset with sp := 16 } : State).sp.val = 16 ∧
    State.reset.sp.val = 0 := by decide

theorem witness_ReturnAfterCallResumesCaller : State.reset.sp.val < 16 ∧
    ∃ t, exec (.call 0x208) State.reset = .next t ∧ ∃ t' : State, t'.sp = t.sp ∧ t'.stack = t.stack :=
  ⟨by decide, _, rfl, _, rfl, rfl⟩

/-- A skip that is taken and one that is not. -/
theorem witness_RegisterSkipsFollowTheirCondition : decide ((regs [(3, 0x42)]).getV 3 = 0x42) = true ∧
    decide ((regs [(3, 0x42)]).getV 3 ≠ 0x42) = false := by decide

theorem witness_LogicInstructionsAreBitwise : { defaultParams with logicVF := .reset }.logicVF = .reset ∧
    defaultParams.logicVF = .unchanged := by decide

/-- The clauses of ADD, SUB, SUBN, SHR and SHL: X = F and X other than F, under both orders. -/
theorem witness_AddSetsCarry : (0xF : Reg) = VF ∧ (0xE : Reg) ≠ VF ∧ State.reset.params.flagOrder = .sequential ∧
    (flagLast State.reset).params.flagOrder = .flagLast := by decide

theorem witness_SubtractSetsNotBorrow : State.reset.params.flagOrder = .sequential ∧
    (flagLast State.reset).params.flagOrder = .flagLast ∧ (0xE : Reg) ≠ VF := by decide

theorem witness_SubtractReversedSetsNotBorrow : State.reset.params.flagOrder = .sequential ∧
    (flagLast State.reset).params.flagOrder = .flagLast ∧ (0xE : Reg) ≠ VF := by decide

theorem witness_ShiftsMoveOneBitIntoVF : State.reset.params.flagOrder = .sequential ∧
    (flagLast State.reset).params.flagOrder = .flagLast ∧ (0xE : Reg) ≠ VF := by decide

theorem witness_FlagOrderMattersOnlyAtVF : (0xE : Reg) ≠ VF ∧ (0 : Reg) ≠ VF ∧
    Instr.sub 0xE 0 ∈ [Instr.addReg 0xE 0, .sub 0xE 0, .shr 0xE 0, .subn 0xE 0, .shl 0xE 0] := by decide

/-- The first and the last block of three bytes under `fault`, and the lowest under `write`. -/
theorem witness_DecimalDigitsAreStored : (MemoryCanonical (atI 0xFFD) ∧ (atI 0xFFD).idx.toNat + 2 ≤ 0xFFF ∧
      0x1FF < (atI 0xFFD).idx.toNat) ∧
    (MemoryCanonical (atI 0x200) ∧ (atI 0x200).idx.toNat + 2 ≤ 0xFFF ∧ 0x1FF < (atI 0x200).idx.toNat) ∧
    (MemoryCanonical (writable 0) ∧ (writable 0).idx.toNat + 2 ≤ 0xFFF ∧ (writable 0).params.reservedWrite = .write) :=
  ⟨⟨rfl, by decide⟩, ⟨rfl, by decide⟩, rfl, by decide⟩

/-- The three clauses of FX55 at their boundaries. -/
theorem witness_RegisterDumpStoresRange :
    (MemoryCanonical (atI 0xFF0) ∧ (atI 0xFF0).idx.toNat + (15 : Reg).val ≤ 0xFFF ∧ 0x1FF < (atI 0xFF0).idx.toNat) ∧
    (MemoryCanonical (writable 0) ∧ (writable 0).idx.toNat + (0 : Reg).val ≤ 0xFFF ∧
      (writable 0).params.reservedWrite = .write) ∧
    0xFFF < (atI 0xFF1).idx.toNat + (15 : Reg).val ∧
    ((atI 0x1FF).params.reservedWrite = .fault ∧ (atI 0x1FF).idx.toNat ≤ 0x1FF) :=
  ⟨⟨rfl, by decide⟩, ⟨rfl, by decide⟩, by decide⟩

/-- The two clauses of FX65 at their boundaries. -/
theorem witness_RegisterLoadReadsRange : (atI 0xFFF).idx.toNat + (0 : Reg).val ≤ 0xFFF ∧
    0xFFF < (atI 0xFFF).idx.toNat + (1 : Reg).val ∧
    0xFFF < (atI 0xFFFF).idx.toNat + (0 : Reg).val := by decide

theorem witness_DigitAndSpriteAccessFaults : 0xFFF < (atI 0xFFE).idx.toNat + 2 ∧
    ((atI 0x1FF).params.reservedWrite = .fault ∧ (atI 0x1FF).idx.toNat ≤ 0x1FF) ∧
    (1 ≤ 1 ∧ 1 ≤ 15 ∧ 0xFFF < (atI 0x1000).idx.toNat + (1 - 1)) ∧
    0xFFF < (atI 0xFF2).idx.toNat + (15 - 1) := by decide

theorem witness_LoadAfterDumpRestoresRegisters : MemoryCanonical (atI 0xFF0) ∧
    (atI 0xFF0).idx.toNat + (15 : Reg).val ≤ 0xFFF ∧ 0x1FF < (atI 0xFF0).idx.toNat := ⟨rfl, by decide⟩

theorem witness_StoredBytesAreFetched : MemoryCanonical (atI 0xFF0) ∧ (atI 0xFF0).idx.toNat + (15 : Reg).val ≤ 0xFFF ∧
    0x1FF < (atI 0xFF0).idx.toNat ∧ 14 + 1 ≤ (15 : Reg).val ∧
    ({ atI 0xFF0 with pc := 0xFFE } : State).pc.toNat = (atI 0xFF0).idx.toNat + 14 := ⟨rfl, by decide⟩

/-- A sprite of one byte 0x80 at I, in a machine where cell (0, 0) is lit. -/
def sprite : State := { lit (poke State.reset 0x300 [0x80]) [(0, 0)] with idx := 0x300 }

/-- Heights 0, 1 and 15 at the end of memory, a covered cell that is lit, and one that is not covered. -/
theorem witness_DrawInvertsCoveredCells : (15 ≤ 15 ∧ ({ sprite with idx := 0xFF1 } : State).idx.toNat + (15 - 1) ≤ 0xFFF) ∧
    SpriteCovers sprite (drawCoord sprite 0) (drawCoord sprite 1) 1 0 0 ∧ sprite.pixel 0 0 = true ∧
    ¬ SpriteCovers sprite (drawCoord sprite 0) (drawCoord sprite 1) 0 0 0 := by
  refine ⟨by decide, ⟨0, 0, by decide, by decide, by decide, by decide, by decide⟩, by decide, ?_⟩
  rintro ⟨r, _, h, _⟩
  exact absurd h (Nat.not_lt_zero r)

/-- No covered cell is lit: the same sprite over an empty frame buffer. -/
theorem witness_DrawInvertsCoveredCells_no_collision :
    ∀ py px, SpriteCovers State.reset (drawCoord State.reset 0) (drawCoord State.reset 1) 1 py px →
      State.reset.pixel py px = false := by
  intro py px _
  simp [State.pixel, State.reset]

theorem witness_DrawTwiceRestoresFrameBuffer : (0 : Reg) ≠ VF ∧ (1 : Reg) ≠ VF ∧ sprite.idx.toNat + (1 - 1) ≤ 0xFFF ∧
    ∃ py px, SpriteCovers { sprite with fb := State.reset.fb } (sprite.getV 0) (sprite.getV 1) 1 py px ∧
      ({ sprite with fb := State.reset.fb } : State).pixel py px = false :=
  ⟨by decide, by decide, by decide, 0, 0, ⟨0, 0, by decide, by decide, by decide, by decide, by decide⟩, by decide⟩

/-- Index 15, index 16 under both policies. -/
theorem witness_KeySkipsFollowKeypad : ((15 : Reg).val = ((regs [(1, 15)]).getV 1).toNat % 16 ∧ ((regs [(1, 15)]).getV 1).toNat ≤ 15) ∧
    ((0 : Reg).val = ((regs [(1, 16)]).getV 1).toNat % 16 ∧ { defaultParams with keyIndex := .lowNibble }.keyIndex = .lowNibble) ∧
    (15 < ((regs [(1, 16)]).getV 1).toNat ∧ (regs [(1, 16)]).params.keyIndex = .fault) := by decide

theorem witness_WaitForKeyStoresAPressedKey : (∀ k : Reg, State.reset.key[k] = false) ∧ (keys [15]).key[15] = true := by decide

theorem witness_KeyTiebreakTakesLowestOrHighest : ((keys [3, 9]).key[(3 : Reg)] = true ∧
      ∀ j : Reg, (keys [3, 9]).key[j] = true → 3 ≤ j) ∧
    ((keys [3, 9]).key[(9 : Reg)] = true ∧ ∀ j : Reg, (keys [3, 9]).key[j] = true → j ≤ 9) ∧
    { defaultParams with keyTiebreak := .lowest }.keyTiebreak = .lowest ∧
    { defaultParams with keyTiebreak := .highest }.keyTiebreak = .highest := by decide

/-- DT above 0 and ST at 0. -/
theorem witness_TimerTickCountsDownToZero : (withAct .timer).run = .running ∧ (withAct .timer).nextActivity = .timer ∧
    (withAct .timer).dt = 3 ∧ (withAct .timer).st = 0 := by decide

/-- The four activities in turn, for ever. -/
def rotation (n : Nat) : Activity :=
  match n % 4 with
  | 0 => .cpu
  | 1 => .timer
  | 2 => .redraw false
  | _ => .input (keys []).key false

theorem rotation_fair (kind : ActivityKind) (n : Nat) : ∃ m, n ≤ m ∧ activityKind (rotation m) = kind := by
  have e : ∀ k, k < 4 → rotation (4 * n + k) = rotation k := by
    intro k hk
    unfold rotation
    rw [show (4 * n + k) % 4 = k % 4 by omega]
  cases kind
  · exact ⟨4 * n + 0, by omega, by rw [e 0 (by decide)]; rfl⟩
  · exact ⟨4 * n + 1, by omega, by rw [e 1 (by decide)]; rfl⟩
  · exact ⟨4 * n + 2, by omega, by rw [e 2 (by decide)]; rfl⟩
  · exact ⟨4 * n + 3, by omega, by rw [e 3 (by decide)]; rfl⟩

/-- Each of the four leaves a machine halted at 0x200 halted there. -/
theorem rotation_keeps_halted (n : Nat) (s : State) (h : HaltedAt 0x200 s) (hn : s.nextActivity = rotation n) :
    ∃ t, step s = .next t ∧ HaltedAt 0x200 t := by
  obtain ⟨hr, ha, hp, hw⟩ := h
  rw [step_running hr, hn]
  unfold rotation
  split
  · have hf : s.fetchWord = 0x1200 := by
      unfold State.fetchWord joinBytes
      rw [hp]
      exact hw
    rcases cycle_cases s.dequeued with ⟨h, -⟩ | ⟨-, h, -⟩ | ⟨i, -, h, e⟩
    · exact absurd (hp ▸ h : 4094 < _) (by decide)
    · rw [show s.dequeued.fetchWord = 0x1200 from hf] at h
      exact absurd h (by decide)
    · rw [show s.dequeued.fetchWord = 0x1200 from hf,
        show decodeWord 0x1200 = some (.jp 0x200) by decide, Option.some.injEq] at h
      subst h
      exact ⟨_, e, hr, ha, rfl, hw⟩
  · exact ⟨_, rfl, hr, ha, hp, hw⟩
  · exact ⟨_, rfl, hr, ha, hp, hw⟩
  · exact ⟨_, rfl, hr, ha, hp, hw⟩

/-- A weakly fair run of a machine that starts halted, with DT = 3 and ST = 1. -/
theorem witness_TimerTickCountsDownToZero_fair : ∃ r : Nat → State, HaltedAt 0x200 (r 0) ∧ (r 0).dt = 3 ∧ (r 0).st = 1 ∧
    IsRun r ∧ WeaklyFair r := by
  have h0 : HaltedAt 0x200 halted := ⟨by decide, by decide, by decide, by decide⟩
  obtain ⟨run, inv⟩ := follow_isRun (sched := rotation) h0 (fun _ _ h => h) rotation_keeps_halted
  exact ⟨follow rotation halted, h0, rfl, rfl, run, weaklyFair_of_schedule (fun n => (inv n).2) rotation_fair⟩

theorem witness_InputRefreshReplacesKeypad : (withAct (.input (keys [2]).key true)).run = .running ∧
    (withAct (.input (keys [2]).key true)).nextActivity = .input (keys [2]).key true ∧
    (withAct (.input (keys [2]).key false)).nextActivity = .input (keys [2]).key false ∧
    (withAct .inputFailure).nextActivity = .inputFailure := by decide

/-- A running machine with no fault meets the premise of the normal end. -/
theorem witness_InputRefreshReplacesKeypad_end : FaultsStop (withAct .inputFailure) :=
  fun h => by simp [withAct, ready, State.reset] at h

theorem witness_RedrawChangesNothingOfTheCore : (withAct (.redraw true)).run = .running ∧
    (withAct (.redraw true)).nextActivity = .redraw true ∧ (withAct (.redraw false)).nextActivity = .redraw false := by decide

theorem witness_OnlyTheCpuTouchesTheProgram : (withAct .timer).nextActivity ≠ .cpu ∧ ∃ t, step (withAct .timer) = .next t :=
  ⟨by decide, _, rfl⟩

/-- A machine in Idle whose loader offers an image. -/
def offered (rom : RomImage) : State := { State.created with loader := some rom }

/-- The longest image, and the empty one. -/
theorem witness_InitialisationLoadsTheRom : (offered (.image (List.replicate 3584 0x12))).run = .idle ∧
    (offered (.image (List.replicate 3584 0x12))).loader = some (.image (List.replicate 3584 0x12)) ∧
    (List.replicate 3584 (0x12 : Byte)).length ≤ 3584 ∧ (offered (.image [])).loader = some (.image []) ∧
    ([] : List Byte).length ≤ 3584 := ⟨rfl, rfl, by rw [List.length_replicate], rfl, by decide⟩

/-- The shortest image that is too long, and an unreadable one. -/
theorem witness_LoadErrorStopsBeforeRunning : (offered (.image (List.replicate 3585 0x12))).run = .idle ∧
    (offered (.image (List.replicate 3585 0x12))).loader = some (.image (List.replicate 3585 0x12)) ∧
    (∃ bytes, RomImage.image (List.replicate 3585 (0x12 : Byte)) = .image bytes ∧ 3584 < bytes.length) ∧
    (offered .unreadable).run = .idle ∧ (offered .unreadable).loader = some .unreadable :=
  ⟨rfl, rfl, ⟨_, rfl, by rw [List.length_replicate]; decide⟩, rfl, rfl⟩

theorem witness_NoActivityOutsideRunning : ({ State.reset with run := .stopped } : State).run = .stopped ∧
    State.created.run = .idle ∧ State.created.loader = none := by decide

theorem witness_StepKeepsMemoryCanonical : MemoryCanonical (atI 0xFF0) ∧ ∃ t, step (atI 0xFF0) = .next t := ⟨rfl, _, rfl⟩

/-- At the largest `pc`, where the step is a fetch fault. -/
theorem witness_StepKeepsPcBounded : PcBounded { ready with pc := 0x10FE } ∧
    ∃ t, step { ready with pc := 0x10FE } = .next t := ⟨⟨by decide, by decide⟩, _, rfl⟩

/-- At a return from a full stack. -/
theorem witness_StepKeepsPcBounded_return :
    PcBounded { poke ready 0xFFE [0x00, 0xEE] with pc := 0xFFE, sp := 16, stack := Vector.replicate 16 4096 } :=
  ⟨by decide, by decide⟩

theorem witness_StepKeepsFaultsOnStoppedMachines : FaultsStop ready ∧ (∃ t, step ready = .next t) ∧
    FaultsStop { State.reset with run := .stopped, fault := some ⟨.stackOverflow, 0x200, some 0x2200, 16⟩ } :=
  ⟨fun h => by simp [ready, State.reset] at h, ⟨_, rfl⟩, fun _ => rfl⟩

theorem witness_EveryFaultIsPrecise : State.reset.run = .running ∧
    ∃ t, exec .ret State.reset = .next t ∧ t.run ≠ .running := ⟨by decide, _, rfl, by decide⟩

theorem witness_EveryInstructionWritesOnlyItsParts : State.reset.run = .running ∧
    ∃ t, exec (.load 15) State.reset = .next t ∧ t.run = .running := ⟨by decide, _, rfl, by decide⟩

/-- A machine about to run FX55 at the lowest address outside the reserved region. -/
def dumpAtBase : State := { poke ready 0x300 [0xF0, 0x55] with pc := 0x300, idx := 0x200 }

theorem witness_ReservedRegionIsReadOnlyWhileRunning : dumpAtBase.run = .running ∧
    dumpAtBase.params.reservedWrite = .fault ∧ (∃ t, step dumpAtBase = .next t) ∧ 0x1FF ≤ 0x1FF :=
  ⟨rfl, rfl, ⟨_, rfl⟩, le_rfl⟩

theorem witness_LifecycleNeverReturnsToIdle : (∃ t, step ready = .next t) ∧ ∃ t, step (offered (.image [])) = .next t :=
  ⟨⟨_, rfl⟩, _, rfl⟩

theorem witness_NoStepWritesParameters : ∃ t, step (flagLast ready) = .next t := ⟨_, rfl⟩

theorem witness_DiagnosticsAreAppendOnly : ready.run = .running ∧ ∃ t, step ready = .next t := ⟨by decide, _, rfl⟩

theorem witness_HaltedMachineStaysHalted : HaltedAt 0x200 halted ∧ HaltedAt 0xFFE haltedLast ∧ halted.nextActivity = .cpu ∧
    ∃ t, step halted = .next t ∧ t.run = .running := by
  refine ⟨⟨by decide, by decide, by decide, by decide⟩, ⟨by decide, by decide, by decide, by decide⟩, by decide, _, rfl,
    by decide⟩

end Sys2Proof.Tests
end

section
/-! SUPPORT. From a row of the opcode table to the decoder's answer, and what a jump and a skip write. -/

namespace Sys2Proof

/-- Every row's mask has the family nibble and the bits that the decoder looks at in its family, and a row's key is its
own dispatch key (R74, R77). The masks differ in family 0, where the decoder drops the nibble. -/
theorem opcodeTable_masks : ∀ r ∈ opcodeTable, fieldF r.mask = 0xF#4 ∧
    r.mask &&& familyMask (fieldF r.key) = familyMask (fieldF r.key) ∧ dispatchKey r.key = r.key := by
  decide

/-- Masking with a full family nibble keeps the family. -/
theorem fieldF_and {mask : Word} (hmask : fieldF mask = 0xF#4) (op : Word) : fieldF (op &&& mask) = fieldF op := by
  unfold fieldF at *
  rw [BitVec.extractLsb'_and, hmask]
  exact BitVec.and_allOnes

/-- A word that matches a row of the opcode table has that row's key as its dispatch key (R76, R77). -/
theorem dispatchKey_of_match {op : Word} {r : Row} (hr : r ∈ opcodeTable) (h : op &&& r.mask = r.key) :
    dispatchKey op = r.key := by
  obtain ⟨hnibble, hcovers, hkey⟩ := opcodeTable_masks r hr
  have hfamily : fieldF r.key = fieldF op := by rw [← h, fieldF_and hnibble]
  calc dispatchKey op
      = op &&& familyMask (fieldF r.key) := by rw [dispatchKey, hfamily]
    _ = op &&& r.mask &&& familyMask (fieldF r.key) := by rw [BitVec.and_assoc, hcovers]
    _ = dispatchKey r.key := by rw [h, dispatchKey]
    _ = r.key := hkey

namespace Machine

/-- To know how a row's words are read, it is enough to know how the decoder answers the row's key. -/
theorem decodesAs_of_key {key mask : Word} {instr : Word → Instr} (hr : ⟨key, mask⟩ ∈ opcodeTable)
    (hkey : ∀ op, dispatchKey op = key → decodeWord op = some (instr op)) : DecodesAs key mask instr :=
  fun op h => hkey op (dispatchKey_of_match hr h)

/-- Zero extension keeps an address's value (R72). -/
@[simp] theorem addrOperand_toNat (nnn : BitVec 12) : (addrOperand nnn).toNat = nnn.toNat :=
  BitVec.toNat_setWidth_of_le (by decide)

/-- A skip adds 2 modulo 2^16 or nothing (R120). -/
theorem State.skipIf_pc_toNat (s : State) (c : Bool) :
    (s.skipIf c).pc.toNat = if c = true then (s.pc.toNat + 2) % 65536 else s.pc.toNat := by
  rw [State.skipIf_pc]
  split
  · exact BitVec.toNat_add s.pc 2
  · rfl

theorem exec_jp (nnn : BitVec 12) (s : State) : exec (.jp nnn) s = .next { s with pc := addrOperand nnn } := rfl

theorem exec_seImm (x : Reg) (kk : Byte) (s : State) :
    exec (.seImm x kk) s = .next (s.skipIf (decide (s.getV x = kk))) := rfl

theorem exec_sneImm (x : Reg) (kk : Byte) (s : State) :
    exec (.sneImm x kk) s = .next (s.skipIf (decide (s.getV x ≠ kk))) := by
  rw [decide_not]; rfl

theorem exec_seReg (x y : Reg) (s : State) :
    exec (.seReg x y) s = .next (s.skipIf (decide (s.getV x = s.getV y))) := rfl

theorem exec_sneReg (x y : Reg) (s : State) :
    exec (.sneReg x y) s = .next (s.skipIf (decide (s.getV x ≠ s.getV y))) := by
  rw [decide_not]; rfl

/-! ## The statements of 41_control_flow.md on jumps and register skips -/

/-- Settles O15: each of the four instructions is a skip on its condition, so its `pc` and its frame are the skip's. -/
theorem registerSkipsFollowTheirCondition : Obligations.RegisterSkipsFollowTheirCondition := by
  refine ⟨fun x y kk s p hp => ⟨s.skipIf p.2, ?_, s.skipIf_pc_toNat p.2, frame_skipIf s p.2⟩, ?_, ?_, ?_, ?_⟩
  · simp only [List.mem_cons, List.not_mem_nil, or_false] at hp
    obtain rfl | rfl | rfl | rfl := hp
    · exact exec_seImm x kk s
    · exact exec_sneImm x kk s
    · exact exec_seReg x y s
    · exact exec_sneReg x y s
  all_goals exact decodesAs_of_key (by decide) fun op hkey => by rw [decodeWord, hkey]; rfl

/-- Settles O9: the zero-extended address is all that a jump writes. -/
theorem jumpSetsPcToAddress : Obligations.JumpSetsPcToAddress :=
  ⟨fun nnn s => ⟨_, exec_jp nnn s, addrOperand_toNat nnn, frame_pc s _⟩,
    decodesAs_of_key (by decide) fun op hkey => by rw [decodeWord, hkey]; rfl⟩

end Machine

end Sys2Proof
end

section
/-! SUPPORT. What writing one general register leaves unchanged, and the statement of 42_arithmetic_logic.md on adding an
immediate. -/

namespace Sys2Proof.Machine

/-- Writing a register changes no other one (R21). -/
theorem regsExcept_setV (s : State) (r : Reg) (b : Byte) : RegsExcept [r] s (s.setV r b) :=
  fun q hq => s.getV_setV_of_ne r q b (List.ne_of_not_mem_cons hq)

theorem exec_addImm (x : Reg) (kk : Byte) (s : State) :
    exec (.addImm x kk) s = .next (s.setV x (s.getV x + kk)) := rfl

/-- Settles O18: one register write is all that the instruction does, and an 8-bit sum is the sum modulo 256. -/
theorem addImmediateWrapsWithoutFlag : Obligations.AddImmediateWrapsWithoutFlag := by
  refine ⟨fun x kk s => ⟨_, exec_addImm x kk s, ?_, regsExcept_setV s x _, frame_setV s x _⟩, ?_⟩
  · rw [State.getV_setV_same]
    exact BitVec.toNat_add (s.getV x) kk
  · exact decodesAs_of_key (by decide) fun op hkey => by rw [decodeWord, hkey]; rfl

end Sys2Proof.Machine
end

section
/-! SUPPORT. A glyph's address as a number, and the statement of 43_memory_index.md on loading the index register. -/

namespace Sys2Proof.Machine

/-- A glyph's address fits a word whatever the byte, so it is the unreduced sum (R172). -/
theorem glyphAddr_toNat (b : Byte) : (glyphAddr b).toNat = 0x050 + 5 * b.toNat := by
  have hlt : fontBase + 5 * b.toNat < 2 ^ 16 := by
    have := b.isLt
    simp only [fontBase]
    omega
  exact (BitVec.toNat_ofNat _ 16).trans (Nat.mod_eq_of_lt hlt)

theorem exec_ldI (nnn : BitVec 12) (s : State) : exec (.ldI nnn) s = .next { s with idx := addrOperand nnn } := rfl

theorem exec_ldF (x : Reg) (s : State) : exec (.ldF x) s = .next { s with idx := glyphAddr (s.getV x) } := rfl

/-- Settles O26: each of the two instructions is one write of the index register, of an address that is not reduced. -/
theorem indexIsSetToAddressOrGlyph : Obligations.IndexIsSetToAddressOrGlyph := by
  refine ⟨fun nnn x s => ⟨?_, ?_⟩, ?_, ?_⟩
  · exact ⟨_, exec_ldI nnn s, addrOperand_toNat nnn, frame_idx s _⟩
  · exact ⟨_, exec_ldF x s, glyphAddr_toNat (s.getV x), frame_idx s _⟩
  all_goals exact decodesAs_of_key (by decide) fun op hkey => by rw [decodeWord, hkey]; rfl

end Sys2Proof.Machine
end

section
/-! SUPPORT. Every cell of an unlit frame buffer, and the statement of 44_graphics.md on clearing the screen. -/

namespace Sys2Proof.Machine

/-- A frame buffer of 32 unlit rows shows no lit cell, whatever else the state holds (R34). -/
theorem State.pixel_of_unlit {s : State} (h : s.fb = Vector.replicate 32 (Vector.replicate 64 false)) (y : Fin 32)
    (x : Fin 64) : s.pixel y x = false := by
  simp [State.pixel, h]

theorem exec_cls (s : State) :
    exec .cls s = .next { s with fb := Vector.replicate 32 (Vector.replicate 64 false) } := rfl

/-- Settles O34: one write of an unlit frame buffer is all that the instruction does. -/
theorem clearScreenClearsEveryCell : Obligations.ClearScreenClearsEveryCell :=
  ⟨fun s => ⟨_, exec_cls s, State.pixel_of_unlit rfl, frame_fb s _⟩,
    decodesAs_of_key (by decide) fun op hkey => by rw [decodeWord, hkey]; rfl⟩

end Sys2Proof.Machine
end

section
/-! SUPPORT. When the tone is on, and the statement of 45_timers_keypad.md on setting the two timers. -/

namespace Sys2Proof.Machine

/-- The tone is the test that ST is not 0, with no state of its own (R232). -/
theorem State.tone_eq_decide (s : State) : s.tone = decide (s.st ≠ 0) := by
  rw [decide_not]; rfl

theorem exec_ldDT (x : Reg) (s : State) : exec (.ldDT x) s = .next { s with dt := s.getV x } := rfl

theorem exec_ldST (x : Reg) (s : State) : exec (.ldST x) s = .next { s with st := s.getV x } := rfl

/-- Settles O38: each of the two instructions is one write of its timer, and the tone is read off the new ST. -/
theorem timersAreSetFromVx : Obligations.TimersAreSetFromVx := by
  refine ⟨fun x s => ⟨?_, ?_⟩, ?_, ?_⟩
  · exact ⟨_, exec_ldDT x s, rfl, frame_dt s _⟩
  · exact ⟨_, exec_ldST x s, rfl, State.tone_eq_decide _, frame_st s _⟩
  all_goals exact decodesAs_of_key (by decide) fun op hkey => by rw [decodeWord, hkey]; rfl

end Sys2Proof.Machine
end

section
/-! SUPPORT. What the decoder reads from a word, family by family, and the statements of 30_encoding.md. -/

namespace Sys2Proof

/-! ## A word in terms of its fields -/

theorem packNNN_fields (op : Word) : packNNN (fieldF op) (fieldNNN op) = op :=
  (BitVec.extractLsb'_append_extractLsb'_eq_extractLsb' (by decide)).trans (extract_all op)

theorem packXKK_fields (op : Word) : packXKK (fieldF op) (fieldX op) (fieldKK op) = op := by
  have high : fieldF op ++ regBits (fieldX op) = op.extractLsb' 8 8 :=
    BitVec.extractLsb'_append_extractLsb'_eq_extractLsb' (by decide)
  rw [packXKK, high]
  exact (BitVec.extractLsb'_append_extractLsb'_eq_extractLsb' (by decide)).trans (extract_all op)

/-- The encoder's word for any instruction is a word of the instruction's own row (R77). -/
theorem encode_matches_row (i : Instr) : Laws.TableRow.Statement i := by
  cases i
  case cls => exact Laws.TableRow.cls
  case ret => exact Laws.TableRow.ret
  case jp => exact Laws.TableRow.jp _
  case call => exact Laws.TableRow.call _
  case seImm => exact Laws.TableRow.seImm _ _
  case sneImm => exact Laws.TableRow.sneImm _ _
  case seReg => exact Laws.TableRow.seReg _ _
  case ldImm => exact Laws.TableRow.ldImm _ _
  case addImm => exact Laws.TableRow.addImm _ _
  case ldReg => exact Laws.TableRow.ldReg _ _
  case orReg => exact Laws.TableRow.orReg _ _
  case andReg => exact Laws.TableRow.andReg _ _
  case xorReg => exact Laws.TableRow.xorReg _ _
  case addReg => exact Laws.TableRow.addReg _ _
  case sub => exact Laws.TableRow.sub _ _
  case shr => exact Laws.TableRow.shr _ _
  case subn => exact Laws.TableRow.subn _ _
  case shl => exact Laws.TableRow.shl _ _
  case sneReg => exact Laws.TableRow.sneReg _ _
  case ldI => exact Laws.TableRow.ldI _
  case jpV0 => exact Laws.TableRow.jpV0 _
  case rnd => exact Laws.TableRow.rnd _ _
  case drw => exact Laws.TableRow.drw _ _ _
  case skp => exact Laws.TableRow.skp _
  case sknp => exact Laws.TableRow.sknp _
  case ldVxDT => exact Laws.TableRow.ldVxDT _
  case ldVxK => exact Laws.TableRow.ldVxK _
  case ldDT => exact Laws.TableRow.ldDT _
  case ldST => exact Laws.TableRow.ldST _
  case addI => exact Laws.TableRow.addI _
  case ldF => exact Laws.TableRow.ldF _
  case ldB => exact Laws.TableRow.ldB _
  case dump => exact Laws.TableRow.dump _
  case load => exact Laws.TableRow.load _

theorem row_mem_opcodeTable (i : Instr) : i.row ∈ opcodeTable := (encode_matches_row i).2

theorem dispatchKey_encode (i : Instr) : dispatchKey (encode i) = i.row.key :=
  dispatchKey_of_match (row_mem_opcodeTable i) (encode_matches_row i).1

/-- The decoder reads the encoder's word as the instruction (R83). -/
theorem decodeWord_encode (i : Instr) (h : i.wellFormed = true) : decodeWord (encode i) = some i := by
  rw [decodeWord, dispatchKey_encode]
  cases i
  case drw x y n =>
    have hn : n % 16 = n := Nat.mod_eq_of_lt (Nat.lt_succ_of_le (of_decide_eq_true h))
    simp [Instr.row, encode, hn]
  all_goals simp [Instr.row, encode]

/-- Settles O1: the two bytes join to the encoder's word, which the decoder reads as the instruction. -/
theorem decodeAfterEncodeIsIdentity : Obligations.DecodeAfterEncodeIsIdentity := by
  intro i rest h
  rw [encodeBytes, List.cons_append, List.cons_append, List.nil_append, decode_cons_cons,
    joinBytes_highByte_lowByte, decodeWord_encode i h]

/-! ## The key of a word and the word's row -/

/-- The family's mask keeps the family: what it drops in family 0 is zero there (R74). -/
theorem fieldF_dispatchKey (op : Word) : fieldF (dispatchKey op) = fieldF op := by
  have mask : ∀ f : BitVec 4, f &&& fieldF (familyMask f) = f := by decide
  exact (BitVec.extractLsb'_and).trans (mask (fieldF op))

/-- Every mask is its family's mask and the family nibble, which a key has in full (R74, R77). -/
theorem opcodeTable_masks_eq : ∀ r ∈ opcodeTable, r.mask = familyMask (fieldF r.key) ||| 0xF000#16 ∧
    r.key ||| (r.key &&& 0xF000#16) = r.key := by
  decide

theorem and_familyNibble (op : Word) : op &&& 0xF000#16 = fieldF op ++ 0#12 := by
  conv_lhs => rw [← packNNN_fields op]
  exact Laws.TableRow.packNNN_mask _ _

/-- The converse of `dispatchKey_of_match`: a word with a row's key matches the row. -/
theorem match_of_dispatchKey {op : Word} {r : Row} (hr : r ∈ opcodeTable) (h : dispatchKey op = r.key) :
    op &&& r.mask = r.key := by
  obtain ⟨hmask, hkey⟩ := opcodeTable_masks_eq r hr
  have hfamily : fieldF r.key = fieldF op := by rw [← h, fieldF_dispatchKey]
  calc op &&& r.mask
      = dispatchKey op ||| (op &&& 0xF000#16) := by
        rw [hmask, BitVec.and_or_distrib_left, dispatchKey, hfamily]
    _ = r.key ||| (r.key &&& 0xF000#16) := by
        rw [h, and_familyNibble, and_familyNibble, hfamily]
    _ = r.key := hkey

/-- A word that decodes has its instruction's key (R76). -/
theorem dispatchKey_of_decodeWord {op : Word} {i : Instr} (h : decodeWord op = some i) : dispatchKey op = i.row.key := by
  unfold decodeWord at h
  split at h
  all_goals cases h
  all_goals assumption

/-- Every key of the table decodes, to an instruction of its row (R75). -/
theorem decodeWord_of_dispatchKey {op : Word} {r : Row} (hr : r ∈ opcodeTable) (h : dispatchKey op = r.key) :
    ∃ i, decodeWord op = some i ∧ i.row = r := by
  rw [decodeWord, h]
  simp only [opcodeTable, List.cons_append, List.nil_append, List.mem_cons, List.not_mem_nil, or_false] at hr
  rcases hr with rfl | rfl | rfl | rfl | rfl | rfl | rfl | rfl | rfl | rfl | rfl | rfl | rfl | rfl | rfl | rfl | rfl |
    rfl | rfl | rfl | rfl | rfl | rfl | rfl | rfl | rfl | rfl | rfl | rfl | rfl | rfl | rfl | rfl | rfl
  all_goals exact ⟨_, rfl, rfl⟩

/-- Settles O3: on the rows of the table, matching a row is having its key. -/
theorem decoderAgreesWithOpcodeTable : Obligations.DecoderAgreesWithOpcodeTable := by
  refine ⟨fun _ i _ => row_mem_opcodeTable i, fun op r hr => ⟨fun h => ?_, ?_⟩⟩
  · exact decodeWord_of_dispatchKey hr (dispatchKey_of_match hr h)
  · rintro ⟨i, hi, rfl⟩
    exact match_of_dispatchKey hr (dispatchKey_of_decodeWord hi)

/-- The words that do not decode are those whose key is in no row. -/
theorem decodeWord_eq_none_iff {op : Word} : decodeWord op = none ↔ ∀ r ∈ opcodeTable, dispatchKey op ≠ r.key := by
  constructor
  · intro h r hr hkey
    obtain ⟨i, hi, -⟩ := decodeWord_of_dispatchKey hr hkey
    simp [h] at hi
  · intro h
    cases hd : decodeWord op with
    | none => rfl
    | some i => exact absurd (dispatchKey_of_decodeWord hd) (h i.row (row_mem_opcodeTable i))

/-! ## The unknown-instruction space -/

/-- A match with a row concerns the family and the low byte only: bits 11..8 are in no mask and no key (R77). -/
theorem match_row_iff (op : Word) {r : Row} (hr : r ∈ opcodeTable) :
    op &&& r.mask = r.key ↔ fieldF op = fieldF r.key ∧ fieldKK op &&& fieldKK r.mask = fieldKK r.key := by
  have hrow : ∀ r ∈ opcodeTable, r.mask = packXKK 0xF 0 (fieldKK r.mask) ∧
      r.key = packXKK (fieldF r.key) 0 (fieldKK r.key) := by
    decide
  obtain ⟨hmask, hkey⟩ := hrow r hr
  have hand : op &&& r.mask = packXKK (fieldF op) 0 (fieldKK op &&& fieldKK r.mask) := by
    conv_lhs => rw [← packXKK_fields op, hmask]
    have hf : fieldF op &&& 0xF = fieldF op := BitVec.and_allOnes
    have hx : regBits (fieldX op) &&& regBits 0 = regBits 0 := BitVec.and_zero
    rw [packXKK, packXKK, BitVec.and_append, BitVec.and_append, hf, hx, packXKK]
  rw [hand]
  constructor
  · intro h
    exact ⟨by simpa using congrArg fieldF h, by simpa using congrArg fieldKK h⟩
  · rintro ⟨hf, hkk⟩
    rw [hf, hkk, ← hkey]

/-- The sprite height's field is the low nibble of the low byte. -/
theorem fieldN_eq_fieldKK_mod (op : Word) : fieldN op = (fieldKK op).toNat % 16 := by
  simp only [fieldN, fieldKK, BitVec.extractLsb'_toNat]
  omega

/-- A family that registers single keys, or one whose key is the family alone (R74). -/
theorem family_cases (f : BitVec 4) : f = 0x0 ∨ f = 0x8 ∨ f = 0xE ∨ f = 0xF ∨
    (f ≠ 0x0 ∧ f ≠ 0x8 ∧ f ≠ 0xE ∧ f ≠ 0xF ∧
      ∃ r ∈ opcodeTable, f = fieldF r.key ∧ fieldKK r.mask = 0 ∧ fieldKK r.key = 0) := by
  revert f
  decide

/-- Which pairs of a family and a low byte are in no row of the table (R80). -/
theorem unmatched_iff (f : BitVec 4) (kk : Byte) :
    (∀ r ∈ opcodeTable, ¬ (f = fieldF r.key ∧ kk &&& fieldKK r.mask = fieldKK r.key)) ↔
      (f = 0x0 ∧ kk ∉ [0xE0, 0xEE]) ∨
      (f = 0x8 ∧ kk.toNat % 16 ∈ [0x8, 0x9, 0xA, 0xB, 0xC, 0xD, 0xF]) ∨
      (f = 0xE ∧ kk ∉ [0x9E, 0xA1]) ∨
      (f = 0xF ∧ kk ∉ [0x07, 0x0A, 0x15, 0x18, 0x1E, 0x29, 0x33, 0x55, 0x65]) := by
  have byte : ∀ kk : Byte, kk &&& 0xFF#8 = kk := fun _ => BitVec.and_allOnes
  rcases family_cases f with rfl | rfl | rfl | rfl | ⟨h0, h8, hE, hF, r, hr, hf, hmask, hkey⟩
  · simp [opcodeTable, fieldF, fieldKK, byte]
  · revert kk
    decide
  · simp [opcodeTable, fieldF, fieldKK, byte]
  · simp [opcodeTable, fieldF, fieldKK, byte]
  · have matched : kk &&& fieldKK r.mask = fieldKK r.key := by rw [hmask, hkey]; exact BitVec.and_zero
    refine ⟨fun h => absurd ⟨hf, matched⟩ (h r hr), fun h => ?_⟩
    obtain ⟨e, -⟩ | ⟨e, -⟩ | ⟨e, -⟩ | ⟨e, -⟩ := h <;> contradiction

/-- Settles O4: whether a word decodes is a question about its family and its low byte. -/
theorem unknownOpcodeSpace : Obligations.UnknownOpcodeSpace := by
  intro op
  rw [fieldN_eq_fieldKK_mod, ← unmatched_iff, decodeWord_eq_none_iff]
  refine forall₂_congr fun r hr => ?_
  rw [← match_row_iff op hr]
  exact not_congr ⟨match_of_dispatchKey hr, dispatchKey_of_match hr⟩

/-! ## A decoded word, assembled again -/

theorem packNNN_of_family {op : Word} {f : BitVec 4} (hf : fieldF op = f) : packNNN f (fieldNNN op) = op :=
  hf ▸ packNNN_fields op

theorem packXKK_of_fields {op : Word} {f : BitVec 4} {kk : Byte} (hf : fieldF op = f) (hkk : fieldKK op = kk) :
    packXKK f (fieldX op) kk = op :=
  hf ▸ hkk ▸ packXKK_fields op

theorem fieldN_lt (op : Word) : fieldN op < 16 := (op.extractLsb' 0 4).isLt

theorem toNat_ofNat_fieldN (op : Word) : (BitVec.ofNat 4 (fieldN op)).toNat = fieldN op :=
  (BitVec.toNat_ofNat _ 4).trans (Nat.mod_eq_of_lt (fieldN_lt op))

theorem packXYN_of_fields {op : Word} {f n : BitVec 4} (hf : fieldF op = f) (hn : fieldN op = n.toNat) :
    packXYN f (fieldX op) (fieldY op) n = op := by
  have hn' : n = BitVec.ofNat 4 (fieldN op) := by rw [hn, BitVec.ofNat_toNat, BitVec.setWidth_eq]
  rw [hn', ← hf, packXYN_fields]

/-- Clearing the low nibble, which 5XYn and 9XYn ignore (R78). -/
theorem packXYN_zero_of_family {op : Word} {f : BitVec 4} (hf : fieldF op = f) :
    packXYN f (fieldX op) (fieldY op) 0 = op &&& ~~~0x000F#16 := by
  have mask : ~~~0x000F#16 = packXYN 0xF 0xF 0xF 0 := by decide
  have keep : ∀ b : BitVec 4, b &&& 0xF = b := fun _ => BitVec.and_allOnes
  have keepReg : ∀ r : Reg, regBits r &&& regBits 0xF = regBits r := fun _ => BitVec.and_allOnes
  conv_rhs => rw [← packXYN_fields op, hf, mask]
  rw [packXYN, packXYN, packXYN, BitVec.and_append, BitVec.and_append, BitVec.and_append, keep, keepReg, keepReg]
  exact congrArg _ BitVec.and_zero.symm

/-- Words of one row agree in the family. -/
theorem fieldF_congr {a b : Word} (h : dispatchKey a = dispatchKey b) : fieldF a = fieldF b := by
  rw [← fieldF_dispatchKey a, h, fieldF_dispatchKey]

/-- Words of one row of family E or F agree in the low byte. -/
theorem fieldKK_congr {a b : Word} (h : a &&& 0xF0FF#16 = b &&& 0xF0FF#16) : fieldKK a = fieldKK b := by
  have keep : ∀ w : Word, fieldKK (w &&& 0xF0FF#16) = fieldKK w :=
    fun w => BitVec.extractLsb'_and.trans BitVec.and_allOnes
  rw [← keep a, h, keep]

/-- Words of one row of family 8 agree in the low nibble. -/
theorem fieldN_congr {a b : Word} (h : a &&& 0xF00F#16 = b &&& 0xF00F#16) : fieldN a = fieldN b := by
  have keep : ∀ w : Word, fieldN (w &&& 0xF00F#16) = fieldN w :=
    fun w => congrArg BitVec.toNat (BitVec.extractLsb'_and.trans BitVec.and_allOnes)
  rw [← keep a, h, keep]

/-- A decoded word and the encoder's word for its instruction are words of one row, so they agree in the bits that choose
the row; the operands are read from the word; what is left are the ignored bits. -/
theorem encode_of_decodeWord {op : Word} {i : Instr} (h : decodeWord op = some i) :
    encode i = op &&& ~~~i.ignoredBits := by
  have hkey := dispatchKey_of_decodeWord h
  have hmatch := match_of_dispatchKey (row_mem_opcodeTable i) hkey
  have hsame := hmatch.trans (encode_matches_row i).1.symm
  have hfamily := fieldF_congr (hkey.trans (dispatchKey_encode i).symm)
  have hclean : op = op &&& ~~~0x0000#16 := BitVec.and_allOnes.symm
  rw [decodeWord, hkey] at h
  cases i
  case cls | ret => exact hmatch.symm
  case seReg | sneReg =>
    cases h
    exact packXYN_zero_of_family (hfamily.trans (fieldF_packXYN _ _ _ _))
  case jp | call | ldI | jpV0 =>
    cases h
    exact (packNNN_of_family (hfamily.trans (fieldF_packNNN _ _))).trans hclean
  case seImm | sneImm | ldImm | addImm | rnd =>
    cases h
    exact (packXKK_of_fields (hfamily.trans (fieldF_packXKK _ _ _)) rfl).trans hclean
  case drw =>
    cases h
    exact (packXYN_of_fields (hfamily.trans (fieldF_packXYN _ _ _ _)) (toNat_ofNat_fieldN op).symm).trans hclean
  case ldReg | orReg | andReg | xorReg | addReg | sub | shr | subn | shl =>
    cases h
    exact (packXYN_of_fields (hfamily.trans (fieldF_packXYN _ _ _ _))
      ((fieldN_congr hsame).trans (fieldN_packXYN _ _ _ _))).trans hclean
  all_goals
    cases h
    exact (packXKK_of_fields (hfamily.trans (fieldF_packXKK _ _ _))
      ((fieldKK_congr hsame).trans (fieldKK_packXKK _ _ _))).trans hclean

/-- Only the sprite height can be out of its field, and the decoder takes it from four bits (R71). -/
theorem wellFormed_of_decodeWord {op : Word} {i : Instr} (h : decodeWord op = some i) : i.wellFormed = true := by
  have hkey := dispatchKey_of_decodeWord h
  rw [decodeWord, hkey] at h
  cases i
  case drw =>
    cases h
    exact decide_eq_true (Nat.le_of_lt_succ (fieldN_lt op))
  all_goals rfl

/-- Settles O2: the word is assembled again from the family, the operands and the key bits that the decoder has read. -/
theorem encodeAfterDecodeClearsIgnoredBits : Obligations.EncodeAfterDecodeClearsIgnoredBits :=
  fun _ _ h => ⟨wellFormed_of_decodeWord h, encode_of_decodeWord h⟩

/-- Settles O5: ten fixed words are decoded. -/
theorem specWordsDecode : Obligations.SpecWordsDecode := by
  unfold Obligations.SpecWordsDecode
  decide

end Sys2Proof
end

section
/-! SUPPORT. Which registers the two shared writes of 42_arithmetic_logic.md leave, and its statements on loads, logic,
additions, subtractions, shifts and the random byte. -/

namespace Sys2Proof.Machine

/-! ## Loads -/

theorem exec_ldImm (x : Reg) (kk : Byte) (s : State) : exec (.ldImm x kk) s = .next (s.setV x kk) := rfl

theorem exec_ldReg (x y : Reg) (s : State) : exec (.ldReg x y) s = .next (s.setV x (s.getV y)) := rfl

theorem exec_ldVxDT (x : Reg) (s : State) : exec (.ldVxDT x) s = .next (s.setV x s.dt) := rfl

/-- Settles O16: each of the three is one register write. -/
theorem loadsWriteOnlyVx : Obligations.LoadsWriteOnlyVx := by
  refine ⟨fun x y kk s p hp => ⟨s.setV x p.2, ?_, State.getV_setV_same s x _, regsExcept_setV s x _, frame_setV s x _⟩,
    ?_, ?_, ?_⟩
  · simp only [List.mem_cons, List.not_mem_nil, or_false] at hp
    obtain rfl | rfl | rfl := hp
    · exact exec_ldImm x kk s
    · exact exec_ldReg x y s
    · exact exec_ldVxDT x s
  all_goals exact decodesAs_of_key (by decide) fun op hkey => by rw [decodeWord, hkey]; rfl

/-- Settles O17: the copy reads what the load wrote, and does not lose it in the register it was read from. -/
theorem loadedByteReadsBack : Obligations.LoadedByteReadsBack := by
  intro r q b s
  refine ⟨_, _, exec_ldImm r b s, exec_ldReg q r _, ?_, ?_⟩
  · simp
  · simp [State.getV_setV]

/-! ## Logic -/

theorem exec_orReg (x y : Reg) (s : State) :
    exec (.orReg x y) s = .next (s.setV x (s.getV x ||| s.getV y)).logicFlag := rfl

theorem exec_andReg (x y : Reg) (s : State) :
    exec (.andReg x y) s = .next (s.setV x (s.getV x &&& s.getV y)).logicFlag := rfl

theorem exec_xorReg (x y : Reg) (s : State) :
    exec (.xorReg x y) s = .next (s.setV x (s.getV x ^^^ s.getV y)).logicFlag := rfl

/-- LOGIC_VF = reset clears VF and nothing else (R144 to R146). -/
theorem State.getV_logicFlag (s : State) (r : Reg) :
    s.logicFlag.getV r = if s.params.logicVF = .reset ∧ r = VF then 0 else s.getV r := by
  unfold State.logicFlag
  split
  · next h => simp [h]
  · next h => simp [h, State.getV_setV]

theorem regsExcept_setV_logicFlag (s : State) (x : Reg) (b : Byte) :
    RegsExcept (if s.params.logicVF = .reset then [x, VF] else [x]) s (s.setV x b).logicFlag := by
  intro r hr
  rw [State.getV_logicFlag, State.getV_setV, State.setV_params]
  split at hr
  · next h =>
    obtain ⟨hx, hVF⟩ : r ≠ x ∧ r ≠ VF := by simpa using hr
    rw [if_neg fun e => hVF e.2, if_neg hx]
  · next h => rw [if_neg fun e => h e.1, if_neg (List.ne_of_not_mem_cons hr)]

theorem frame_setV_logicFlag (s : State) (x : Reg) (b : Byte) : Frame [.v] s (s.setV x b).logicFlag :=
  (frame_setV s x b).trans (frame_logicFlag _)

/-- What an instruction does that writes a byte given bit by bit, then the flag of R144 to R146. -/
theorem logic_completes {i : Instr} {f : Bool → Bool → Bool} {s : State} {x y : Reg} {b : Byte}
    (hexec : exec i s = .next (s.setV x b).logicFlag)
    (hbits : ∀ j, b.getLsbD j = f ((s.getV x).getLsbD j) ((s.getV y).getLsbD j)) :
    ∃ t, exec i s = .next t ∧
      (∀ j, j < 8 → (t.getV x).getLsbD j =
        if s.params.logicVF = .reset ∧ x = VF then false else f ((s.getV x).getLsbD j) ((s.getV y).getLsbD j)) ∧
      (s.params.logicVF = .reset → t.getV VF = 0) ∧
      RegsExcept (if s.params.logicVF = .reset then [x, VF] else [x]) s t ∧ Frame [.v] s t := by
  refine ⟨_, hexec, fun j _ => ?_, fun h => ?_, regsExcept_setV_logicFlag s x b, frame_setV_logicFlag s x b⟩
  · rw [State.getV_logicFlag, State.getV_setV_same, State.setV_params]
    split
    · exact BitVec.getLsbD_zero
    · exact hbits j
  · rw [State.getV_logicFlag, if_pos ⟨h, rfl⟩]

/-- Settles O19: each of the three writes a byte whose bits are the operation's on the operands' bits. -/
theorem logicInstructionsAreBitwise : Obligations.LogicInstructionsAreBitwise := by
  intro x y s p hp
  simp only [List.mem_cons, List.not_mem_nil, or_false] at hp
  obtain rfl | rfl | rfl := hp
  · exact logic_completes (exec_orReg x y s) fun _ => BitVec.getLsbD_or
  · exact logic_completes (exec_andReg x y s) fun _ => BitVec.getLsbD_and
  · exact logic_completes (exec_xorReg x y s) fun _ => BitVec.getLsbD_xor

/-! ## Flag and result -/

/-- Under `sequential` the result is written over the flag (R140). -/
theorem State.getV_writeFlagAndResult_sequential {s : State} (h : s.params.flagOrder = .sequential) (x : Reg) (f : Byte)
    (g : State → Byte) (r : Reg) :
    (s.writeFlagAndResult x f g).getV r = if r = x then g (s.setV VF f) else if r = VF then f else s.getV r := by
  rw [State.writeFlagAndResult, h]
  simp only [State.getV_setV]

/-- Under `flagLast` the flag is written over the result (R140). -/
theorem State.getV_writeFlagAndResult_flagLast {s : State} (h : s.params.flagOrder = .flagLast) (x : Reg) (f : Byte)
    (g : State → Byte) (r : Reg) :
    (s.writeFlagAndResult x f g).getV r = if r = VF then f else if r = x then g s else s.getV r := by
  rw [State.writeFlagAndResult, h]
  simp only [State.getV_setV]

/-- Where the result goes to another register than VF and does not depend on it, the order of the two writes does not
matter (R140). -/
theorem State.getV_writeFlagAndResult_of_ne (s : State) {x : Reg} (hx : x ≠ VF) (f : Byte) {g : State → Byte}
    (hg : g (s.setV VF f) = g s) (r : Reg) :
    (s.writeFlagAndResult x f g).getV r = if r = x then g s else if r = VF then f else s.getV r := by
  cases h : s.params.flagOrder with
  | sequential => rw [State.getV_writeFlagAndResult_sequential h, hg]
  | flagLast =>
    rw [State.getV_writeFlagAndResult_flagLast h]
    by_cases hr : r = VF
    · rw [if_pos hr, if_neg (hr ▸ hx.symm), if_pos hr]
    · rw [if_neg hr, if_neg hr]

theorem regsExcept_writeFlagAndResult (s : State) (x : Reg) (f : Byte) (g : State → Byte) :
    RegsExcept [x, VF] s (s.writeFlagAndResult x f g) := by
  intro r hr
  obtain ⟨hx, hVF⟩ : r ≠ x ∧ r ≠ VF := by simpa using hr
  cases h : s.params.flagOrder with
  | sequential => rw [State.getV_writeFlagAndResult_sequential h, if_neg hx, if_neg hVF]
  | flagLast => rw [State.getV_writeFlagAndResult_flagLast h, if_neg hVF, if_neg hx]

/-- The two orders of R140, as the statements of 42_arithmetic_logic.md speak of them. -/
theorem flagAndResult_completes {i : Instr} {s : State} {x : Reg} {f : Byte} {g : State → Byte}
    (hexec : exec i s = .next (s.writeFlagAndResult x f g)) :
    ∃ t, exec i s = .next t ∧
      (s.params.flagOrder = .sequential → t.getV x = g (s.setV VF f) ∧ (x ≠ VF → t.getV VF = f)) ∧
      (s.params.flagOrder = .flagLast → t.getV VF = f ∧ (x ≠ VF → t.getV x = g s)) ∧
      RegsExcept [x, VF] s t ∧ Frame [.v] s t := by
  refine ⟨_, hexec, fun h => ⟨?_, fun hx => ?_⟩, fun h => ⟨?_, fun hx => ?_⟩, regsExcept_writeFlagAndResult s x f g,
    frame_writeFlagAndResult s x f g⟩
  · rw [State.getV_writeFlagAndResult_sequential h, if_pos rfl]
  · rw [State.getV_writeFlagAndResult_sequential h, if_neg hx.symm, if_pos rfl]
  · rw [State.getV_writeFlagAndResult_flagLast h, if_pos rfl]
  · rw [State.getV_writeFlagAndResult_flagLast h, if_neg hx, if_pos rfl]

/-! ## Flags and results as numbers -/

theorem toNat_flagByte (p : Prop) [Decidable p] : (flagByte (decide p)).toNat = if p then 1 else 0 := by
  by_cases h : p <;> simp [flagByte, h]

theorem toNat_carryFlag (a b : Byte) : (carryFlag a b).toNat = if a.toNat + b.toNat > 255 then 1 else 0 :=
  toNat_flagByte _

theorem toNat_greaterFlag (a b : Byte) : (greaterFlag a b).toNat = if a.toNat > b.toNat then 1 else 0 :=
  toNat_flagByte _

theorem toNat_lowBitFlag (a : Byte) : (lowBitFlag a).toNat = a.toNat % 2 :=
  (BitVec.toNat_and a 1).trans (Nat.and_one_is_mod _)

theorem toNat_highBitFlag (a : Byte) : (highBitFlag a).toNat = a.toNat / 128 :=
  (BitVec.toNat_ushiftRight a 7).trans (Nat.shiftRight_eq_div_pow _ 7)

theorem toNat_byte_sub (a b : Byte) : (a - b).toNat = (a.toNat + 256 - b.toNat) % 256 := by
  have := b.isLt
  rw [BitVec.toNat_sub]
  omega

theorem toNat_byte_shr (a : Byte) : (a >>> 1).toNat = a.toNat / 2 :=
  (BitVec.toNat_ushiftRight a 1).trans (Nat.shiftRight_eq_div_pow _ 1)

theorem toNat_byte_shl (a : Byte) : (a <<< 1).toNat = 2 * a.toNat % 256 := by
  rw [BitVec.toNat_shiftLeft, Nat.shiftLeft_eq, Nat.mul_comm]

/-- A register of the state in which VF holds the flag already, as a number. -/
theorem toNat_getV_setV_VF (s : State) (f : Byte) (r : Reg) :
    ((s.setV VF f).getV r).toNat = if r = VF then f.toNat else (s.getV r).toNat := by
  rw [State.getV_setV, apply_ite BitVec.toNat]

/-! ## The statements on flag-producing instructions -/

theorem exec_addReg (x y : Reg) (s : State) : exec (.addReg x y) s =
    .next (s.writeFlagAndResult x (carryFlag (s.getV x) (s.getV y)) fun _ => s.getV x + s.getV y) := rfl

theorem exec_sub (x y : Reg) (s : State) : exec (.sub x y) s =
    .next (s.writeFlagAndResult x (greaterFlag (s.getV x) (s.getV y)) fun r => r.getV x - r.getV y) := rfl

theorem exec_subn (x y : Reg) (s : State) : exec (.subn x y) s =
    .next (s.writeFlagAndResult x (greaterFlag (s.getV y) (s.getV x)) fun r => r.getV y - r.getV x) := rfl

theorem exec_shr (x y : Reg) (s : State) : exec (.shr x y) s =
    .next (s.writeFlagAndResult x (lowBitFlag (s.getV x)) fun r => r.getV x >>> 1) := rfl

theorem exec_shl (x y : Reg) (s : State) : exec (.shl x y) s =
    .next (s.writeFlagAndResult x (highBitFlag (s.getV x)) fun r => r.getV x <<< 1) := rfl

/-- Settles O20: the sum is taken before either write, so only which of the two writes of VF is last depends on the
order. -/
theorem addSetsCarry : Obligations.AddSetsCarry := by
  refine ⟨fun x y s => ?_, decodesAs_of_key (by decide) fun op hkey => by rw [decodeWord, hkey]; rfl⟩
  have hsum := BitVec.toNat_add (s.getV x) (s.getV y)
  have hcarry := toNat_carryFlag (s.getV x) (s.getV y)
  obtain ⟨t, hexec, hseq, hlast, hregs, hframe⟩ := flagAndResult_completes (exec_addReg x y s)
  refine ⟨t, hexec, fun hx => ?_, fun hx h => ?_, fun hx h => ?_, hregs, hframe⟩
  · cases h : s.params.flagOrder with
    | sequential => exact ⟨by rw [(hseq h).1, hsum], by rw [(hseq h).2 hx, hcarry]⟩
    | flagLast => exact ⟨by rw [(hlast h).2 hx, hsum], by rw [(hlast h).1, hcarry]⟩
  · rw [← hx, (hseq h).1, hsum]
  · rw [(hlast h).1, hcarry]

/-- SUB and SUBN as one: VX becomes the difference of two registers, of which X is one, and VF says which is greater. -/
theorem subtract_completes {i : Instr} {s : State} {x p q : Reg}
    (hexec : exec i s =
      .next (s.writeFlagAndResult x (greaterFlag (s.getV p) (s.getV q)) fun r => r.getV p - r.getV q)) :
    let a := (s.getV p).toNat
    let b := (s.getV q).toNat
    let flag := if a > b then 1 else 0
    ∃ t, exec i s = .next t ∧
      (s.params.flagOrder = .sequential →
        (t.getV x).toNat = ((if p = VF then flag else a) + 256 - (if q = VF then flag else b)) % 256 ∧
        (x ≠ VF → (t.getV VF).toNat = flag)) ∧
      (s.params.flagOrder = .flagLast →
        (t.getV VF).toNat = flag ∧ (x ≠ VF → (t.getV x).toNat = (a + 256 - b) % 256)) ∧
      RegsExcept [x, VF] s t ∧ Frame [.v] s t := by
  have hflag := toNat_greaterFlag (s.getV p) (s.getV q)
  obtain ⟨t, hexec', hseq, hlast, hregs, hframe⟩ := flagAndResult_completes hexec
  refine ⟨t, hexec', fun h => ⟨?_, fun hx => ?_⟩, fun h => ⟨?_, fun hx => ?_⟩, hregs, hframe⟩
  · rw [(hseq h).1, toNat_byte_sub, toNat_getV_setV_VF, toNat_getV_setV_VF, hflag]
  · rw [(hseq h).2 hx, hflag]
  · rw [(hlast h).1, hflag]
  · rw [(hlast h).2 hx, toNat_byte_sub]

/-- Settles O21: VX minus VY. -/
theorem subtractSetsNotBorrow : Obligations.SubtractSetsNotBorrow :=
  ⟨fun x y s => subtract_completes (exec_sub x y s),
    decodesAs_of_key (by decide) fun op hkey => by rw [decodeWord, hkey]; rfl⟩

/-- Settles O22: VY minus VX. -/
theorem subtractReversedSetsNotBorrow : Obligations.SubtractReversedSetsNotBorrow :=
  ⟨fun x y s => subtract_completes (exec_subn x y s),
    decodesAs_of_key (by decide) fun op hkey => by rw [decodeWord, hkey]; rfl⟩

/-- SHR and SHL as one: under `sequential` with X = F it is the flag that is shifted. -/
theorem shift_completes {i : Instr} {s : State} {x : Reg} {flag shift : Byte → Byte} {flagNat shiftNat : Nat → Nat}
    (hflag : ∀ b, (flag b).toNat = flagNat b.toNat) (hshift : ∀ b, (shift b).toNat = shiftNat b.toNat)
    (hexec : exec i s = .next (s.writeFlagAndResult x (flag (s.getV x)) fun r => shift (r.getV x))) :
    let a := (s.getV x).toNat
    ∃ t, exec i s = .next t ∧
      (s.params.flagOrder = .sequential →
        (t.getV x).toNat = shiftNat (if x = VF then flagNat a else a) ∧ (x ≠ VF → (t.getV VF).toNat = flagNat a)) ∧
      (s.params.flagOrder = .flagLast →
        (t.getV VF).toNat = flagNat a ∧ (x ≠ VF → (t.getV x).toNat = shiftNat a)) ∧
      RegsExcept [x, VF] s t ∧ Frame [.v] s t := by
  obtain ⟨t, hexec', hseq, hlast, hregs, hframe⟩ := flagAndResult_completes hexec
  refine ⟨t, hexec', fun h => ⟨?_, fun hx => ?_⟩, fun h => ⟨?_, fun hx => ?_⟩, hregs, hframe⟩
  · rw [(hseq h).1, hshift, toNat_getV_setV_VF, hflag]
  · rw [(hseq h).2 hx, hflag]
  · rw [(hlast h).1, hflag]
  · rw [(hlast h).2 hx, hshift]

/-- Settles O23: half of VX with its bit 0, and twice VX with its bit 7. -/
theorem shiftsMoveOneBitIntoVF : Obligations.ShiftsMoveOneBitIntoVF := by
  refine ⟨fun x y s => ⟨?_, ?_⟩, ?_, ?_⟩
  · exact shift_completes (flagNat := (· % 2)) (shiftNat := (· / 2)) toNat_lowBitFlag toNat_byte_shr (exec_shr x y s)
  · exact shift_completes (flagNat := (· / 128)) (shiftNat := (2 * · % 256)) toNat_highBitFlag toNat_byte_shl
      (exec_shl x y s)
  all_goals exact decodesAs_of_key (by decide) fun op hkey => by rw [decodeWord, hkey]; rfl

/-- A flag-producing instruction that writes and reads other registers than VF does the same under two orders. -/
theorem sameRegs_of_flagOrder {i : Instr} {s : State} {x : Reg} {f : State → Byte} {g : State → State → Byte}
    (o o' : FlagOrder) (hx : x ≠ VF) (hexec : ∀ t : State, exec i t = .next (t.writeFlagAndResult x (f t) (g t)))
    (hf : ∀ p, f { s with params := p } = f s)
    (hg : ∀ p t, (∀ r, r ≠ VF → t.getV r = s.getV r) → g { s with params := p } t = g s s) :
    ∃ t u, exec i { s with params := { s.params with flagOrder := o } } = .next t ∧
      exec i { s with params := { s.params with flagOrder := o' } } = .next u ∧ ∀ r, t.getV r = u.getV r := by
  have hres : ∀ p r, (State.writeFlagAndResult { s with params := p } x (f { s with params := p })
      (g { s with params := p })).getV r = if r = x then g s s else if r = VF then f s else s.getV r := by
    intro p r
    have hsame : g { s with params := p } { s with params := p } = g s s := hg p _ fun _ _ => rfl
    have hflag : g { s with params := p } (State.setV { s with params := p } VF (f { s with params := p })) = g s s :=
      hg p _ fun r hr => State.getV_setV_of_ne { s with params := p } VF r _ hr
    rw [State.getV_writeFlagAndResult_of_ne _ hx _ (hflag.trans hsame.symm), hsame, hf]
    rfl
  exact ⟨_, _, hexec _, hexec _, fun r => (hres _ r).trans (hres _ r).symm⟩

/-- Settles O24: the results depend on VX and VY alone, which the write of VF leaves. -/
theorem flagOrderMattersOnlyAtVF : Obligations.FlagOrderMattersOnlyAtVF := by
  intro x y s o o' hx hy i hi
  simp only [List.mem_cons, List.not_mem_nil, or_false] at hi
  obtain rfl | rfl | rfl | rfl | rfl := hi
  · exact sameRegs_of_flagOrder o o' hx (exec_addReg x y) (fun _ => rfl) fun _ _ _ => rfl
  · exact sameRegs_of_flagOrder o o' hx (exec_sub x y) (fun _ => rfl) fun _ t ht => by rw [ht x hx, ht y hy]
  · exact sameRegs_of_flagOrder o o' hx (exec_shr x y) (fun _ => rfl) fun _ t ht => by rw [ht x hx]
  · exact sameRegs_of_flagOrder o o' hx (exec_subn x y) (fun _ => rfl) fun _ t ht => by rw [ht x hx, ht y hy]
  · exact sameRegs_of_flagOrder o o' hx (exec_shl x y) (fun _ => rfl) fun _ t ht => by rw [ht x hx]

/-! ## The random byte -/

theorem exec_rnd (x : Reg) (kk : Byte) (s : State) :
    exec (.rnd x kk) s = .next (s.setV x (Config.rngByte s.draws &&& kk)).countDraw := rfl

theorem regsExcept_setV_countDraw (s : State) (x : Reg) (b : Byte) : RegsExcept [x] s (s.setV x b).countDraw :=
  regsExcept_setV s x b

theorem frame_setV_countDraw (s : State) (x : Reg) (b : Byte) : Frame [.v, .draws] s (s.setV x b).countDraw :=
  (frame_setV s x b).append (frame_countDraw _)

/-- Settles O25: whatever byte is drawn, it is masked, written and counted. -/
theorem randomByteIsMasked : Obligations.RandomByteIsMasked := by
  intro x kk s
  have hx : (s.setV x (Config.rngByte s.draws &&& kk)).countDraw.getV x = Config.rngByte s.draws &&& kk :=
    State.getV_setV_same s x _
  refine ⟨_, exec_rnd x kk s, hx, rfl, fun hkk => ?_, regsExcept_setV_countDraw s x _, frame_setV_countDraw s x _⟩
  rw [hx, hkk]
  exact BitVec.and_zero

end Sys2Proof.Machine
end

section
/-! SUPPORT. A call, a return and a jump with offset, case by case, and the statements of 41_control_flow.md on them. -/

namespace Sys2Proof.Machine

/-- Raising a fault answers a next state (R106). -/
theorem State.raise_eq (kind : FaultKind) (info : Nat) (s : State) :
    s.raise kind info = .next (s.takeFault ⟨kind, s.instrAddr, some s.opcode, info⟩) := rfl

theorem exec_jpV0 (nnn : BitVec 12) (s : State) :
    exec (.jpV0 nnn) s = .next { s with pc := wordOfByte (s.getV 0) + addrOperand nnn } := rfl

theorem exec_call_of_room (nnn : BitVec 12) {s : State} (h : s.sp.val < 16) :
    exec (.call nnn) s = .next { s.push s.pc h with pc := addrOperand nnn } := dif_pos h

theorem exec_call_of_full (nnn : BitVec 12) {s : State} (h : ¬ s.sp.val < 16) :
    exec (.call nnn) s = s.raise .stackOverflow s.sp.val := dif_neg h

theorem exec_ret_of_entry {s : State} (h : s.sp.val ≠ 0) :
    exec .ret s = .next { s with sp := s.popSp, pc := s.popEntry } := if_neg h

theorem exec_ret_of_empty {s : State} (h : s.sp.val = 0) : exec .ret s = s.raise .stackUnderflow s.sp.val := if_pos h

/-- The sum of a byte and an address fits a word (R26, R128). -/
theorem toNat_jumpTarget (b : Byte) (nnn : BitVec 12) :
    (wordOfByte b + addrOperand nnn).toNat = b.toNat + nnn.toNat := by
  have hb : (wordOfByte b).toNat = b.toNat := BitVec.toNat_setWidth_of_le (by decide)
  have hlt := b.isLt
  have hlt' := nnn.isLt
  rw [BitVec.toNat_add, hb, addrOperand_toNat]
  omega

/-- Settles O10: the sum fits a word, so it is not reduced. -/
theorem jumpWithOffsetAddsV0 : Obligations.JumpWithOffsetAddsV0 :=
  fun nnn s => ⟨_, exec_jpV0 nnn s, toNat_jumpTarget (s.getV 0) nnn, frame_pc s _⟩

/-- A push writes the entry at the old SP and no other (R29). -/
theorem State.push_stack (s : State) (w : Word) (h : s.sp.val < 16) (j : Fin 16) :
    (s.push w h).stack[j] = if j.val = s.sp.val then w else s.stack[j] := by
  simp only [State.push, Fin.getElem_fin, Vector.getElem_set, eq_comm]

theorem frame_push_pc (s : State) (w a : Word) (h : s.sp.val < 16) :
    Frame [.stack, .sp, .pc] s { s.push w h with pc := a } :=
  (frame_push s w h).append (frame_pc _ a)

/-- Settles O11: a push and a jump. -/
theorem callPushesReturnAddress : Obligations.CallPushesReturnAddress :=
  fun nnn s h => ⟨_, exec_call_of_room nnn h, addrOperand_toNat nnn, rfl, s.push_stack s.pc h,
    (frame_push_pc s s.pc _ h).mono (by decide)⟩

/-- Where SP counts one entry more than `j`, the entry on top is entry `j` (R29). -/
theorem State.popEntry_of_sp {s : State} {j : Fin 16} (h : s.sp.val = j.val + 1) : s.popEntry = s.stack[j] := by
  simp only [State.popEntry, h, Nat.add_sub_cancel, Fin.getElem_fin]

theorem frame_pop (s : State) (sp : Fin 17) (a : Word) : Frame [.sp, .pc] s { s with sp := sp, pc := a } :=
  (frame_sp s sp).append (frame_pc { s with sp := sp } a)

/-- Settles O12: the entry on top is entry `j`. -/
theorem returnPopsReturnAddress : Obligations.ReturnPopsReturnAddress := by
  intro s j h
  refine ⟨_, exec_ret_of_entry (by omega), State.popEntry_of_sp h, ?_, (frame_pop s _ _).mono (by decide)⟩
  exact Nat.sub_eq_of_eq_add h

/-- Settles O13: both instructions raise their fault before any write. -/
theorem stackOverflowAndUnderflowFault : Obligations.StackOverflowAndUnderflowFault := by
  refine ⟨fun nnn s h => ⟨_, exec_call_of_full nnn (by omega), ?_⟩, fun s h => ⟨_, exec_ret_of_empty h, ?_⟩⟩
  · rw [h]
    exact faultTaken_takeFault s _ _
  · rw [h]
    exact faultTaken_takeFault s _ _

/-- Settles O14: the return pops the entry that the call has pushed. -/
theorem returnAfterCallResumesCaller : Obligations.ReturnAfterCallResumesCaller := by
  intro nnn s h
  obtain ⟨t, hcall, -, hsp, hstack, -⟩ := callPushesReturnAddress nnn s h
  refine ⟨t, hcall, fun t' hsp' hstack' => ?_⟩
  obtain ⟨u, hret, hpc, hspu, -⟩ := returnPopsReturnAddress t' ⟨s.sp.val, h⟩ (by rw [hsp', hsp])
  exact ⟨u, hret, by rw [hpc, hstack', hstack, if_pos rfl], Fin.ext hspu⟩

end Sys2Proof.Machine
end

section
/-! SUPPORT. Which key an instruction of 45_timers_keypad.md means or picks, and the statements on the key skips and the
wait for a key. -/

namespace Sys2Proof.Machine

/-! ## Key skips -/

/-- An index that names a key, or any index under `low_nibble`, means the key of its low nibble (R206). -/
theorem keyIndex_eq_some {p : KeyIndexPolicy} {b : Byte} {k : Reg} (hk : k.val = b.toNat % 16)
    (h : b.toNat ≤ 15 ∨ p = .lowNibble) : keyIndex p b = some k := by
  have hofNat : Fin.ofNat 16 b.toNat = k := Fin.ext hk.symm
  unfold keyIndex
  rw [hofNat]
  obtain hle | rfl := h
  · rw [if_pos hle]
  · exact ite_self _

theorem keyIndex_eq_none {b : Byte} (h : 15 < b.toNat) : keyIndex .fault b = none := if_neg (by omega)

theorem State.skipOnKey_of_key {s : State} {x k : Reg} (h : keyIndex s.params.keyIndex (s.getV x) = some k)
    (cond : Bool → Bool) : s.skipOnKey x cond = .next (s.skipIf (cond s.key[k])) := by
  rw [State.skipOnKey, h]

theorem State.skipOnKey_of_none {s : State} {x : Reg} (h : keyIndex s.params.keyIndex (s.getV x) = none)
    (cond : Bool → Bool) : s.skipOnKey x cond = s.raise .keyIndexOutOfRange (s.getV x).toNat := by
  rw [State.skipOnKey, h]

theorem exec_skp (x : Reg) (s : State) : exec (.skp x) s = s.skipOnKey x fun pressed => pressed := rfl

theorem exec_sknp (x : Reg) (s : State) : exec (.sknp x) s = s.skipOnKey x fun pressed => !pressed := rfl

/-- Settles O37: where the index names a key both instructions are skips on it, and where it names none both fault. -/
theorem keySkipsFollowKeypad : Obligations.KeySkipsFollowKeypad := by
  refine fun x s => ⟨fun k hk h p hp => ⟨s.skipIf p.2, ?_, s.skipIf_pc_toNat p.2, frame_skipIf s p.2⟩,
    fun h hp i hi => ⟨_, ?_, faultTaken_takeFault s _ _⟩⟩
  · have hkey := keyIndex_eq_some hk h
    simp only [List.mem_cons, List.not_mem_nil, or_false] at hp
    obtain rfl | rfl := hp
    · exact (exec_skp x s).trans (State.skipOnKey_of_key hkey _)
    · exact (exec_sknp x s).trans (State.skipOnKey_of_key hkey _)
  · have hkey : keyIndex s.params.keyIndex (s.getV x) = none := hp ▸ keyIndex_eq_none h
    simp only [List.mem_cons, List.not_mem_nil, or_false] at hi
    obtain rfl | rfl := hi
    · exact (exec_skp x s).trans (State.skipOnKey_of_none hkey _)
    · exact (exec_sknp x s).trans (State.skipOnKey_of_none hkey _)

/-! ## The wait for a key -/

theorem State.mem_pressed {s : State} {k : Reg} : k ∈ s.pressed ↔ s.key[k] = true := by
  simp [State.pressed]

/-- The pressed keys are listed from the lowest to the highest (R203). -/
theorem State.pressed_pairwise (s : State) : s.pressed.Pairwise (· < ·) :=
  (List.sortedLT_finRange 16).pairwise.filter _

/-- The least key of a rising list is its first. -/
theorem head?_of_least {l : List Reg} {k : Reg} (hl : l.Pairwise (· < ·)) (hk : k ∈ l) (hmin : ∀ j ∈ l, k ≤ j) :
    l.head? = some k := by
  cases hl with
  | nil => exact absurd hk List.not_mem_nil
  | @cons a rest hrest _ =>
    obtain rfl | hmem := List.mem_cons.mp hk
    · rfl
    · exact absurd (hmin a List.mem_cons_self) (not_le_of_gt (hrest k hmem))

/-- The greatest key of a rising list is its last. -/
theorem getLast?_of_greatest {l : List Reg} {k : Reg} (hl : l.Pairwise (· < ·)) (hk : k ∈ l) (hmax : ∀ j ∈ l, j ≤ k) :
    l.getLast? = some k := by
  obtain rfl | ⟨init, last, rfl⟩ := l.eq_nil_or_concat'
  · exact absurd hk List.not_mem_nil
  · obtain hmem | hmem := List.mem_append.mp hk
    · have hlt := (List.pairwise_append.mp hl).2.2 k hmem last (List.mem_singleton_self last)
      exact absurd (hmax last (List.mem_append_right init (List.mem_singleton_self last))) (not_le_of_gt hlt)
    · rw [List.getLast?_concat, List.mem_singleton.mp hmem]

/-- Every tie-break picks one of the keys it is given (R203). -/
theorem pickKey_eq_some (p : KeyTiebreak) (n : Nat) {l : List Reg} (h : l ≠ []) :
    ∃ k ∈ l, pickKey p n l = some k := by
  match l, p with
  | [k], _ => exact ⟨k, List.mem_singleton_self k, rfl⟩
  | k :: k' :: rest, .any =>
    have hlt : Config.keyChoice n % (rest.length + 2) < (k :: k' :: rest).length := Nat.mod_lt _ (Nat.succ_pos _)
    exact ⟨_, List.getElem_mem hlt, List.getElem?_eq_getElem hlt⟩
  | k :: k' :: rest, .lowest => exact ⟨k, List.mem_cons_self, rfl⟩
  | k :: k' :: rest, .highest =>
    have hne : k' :: rest ≠ [] := List.cons_ne_nil k' rest
    exact ⟨_, List.mem_cons_of_mem k (List.getLast_mem hne), List.getLast?_eq_getLast_of_ne_nil hne⟩

theorem pickKey_lowest (n : Nat) (l : List Reg) : pickKey .lowest n l = l.head? := by
  match l with
  | [] | [_] | _ :: _ :: _ => rfl

theorem pickKey_highest (n : Nat) (l : List Reg) : pickKey .highest n l = l.getLast? := by
  match l with
  | [] | [_] => rfl
  | _ :: k :: rest => exact (List.getLast?_cons_cons).symm

/-- With no key pressed the instruction goes back to itself (R203). -/
theorem exec_ldVxK_of_none (x : Reg) {s : State} (h : s.pressed = []) :
    exec (.ldVxK x) s = .next { s with pc := s.pc - 2 } := by
  rw [exec, execLdVxK, h, pickKey]

/-- What storing key `k` leaves: only KEY_TIEBREAK = any counts a draw (R203). -/
def State.storeKey (s : State) (x k : Reg) : State :=
  if s.params.keyTiebreak = .any then (s.setV x (BitVec.ofNat 8 k.val)).countDraw else s.setV x (BitVec.ofNat 8 k.val)

theorem exec_ldVxK_of_some (x : Reg) {s : State} {k : Reg}
    (h : pickKey s.params.keyTiebreak s.draws s.pressed = some k) : exec (.ldVxK x) s = .next (s.storeKey x k) := by
  rw [exec, execLdVxK, h]
  rfl

theorem State.toNat_getV_storeKey (s : State) (x k : Reg) : ((s.storeKey x k).getV x).toNat = k.val := by
  have hk : k.val % 2 ^ 8 = k.val := Nat.mod_eq_of_lt (by omega)
  unfold State.storeKey
  split
  all_goals simpa using hk

theorem regsExcept_storeKey (s : State) (x k : Reg) : RegsExcept [x] s (s.storeKey x k) := by
  unfold State.storeKey
  split
  · exact regsExcept_setV_countDraw s x _
  · exact regsExcept_setV s x _

theorem frame_storeKey (s : State) (x k : Reg) : Frame [.v, .draws] s (s.storeKey x k) := by
  unfold State.storeKey
  split
  · exact frame_setV_countDraw s x _
  · exact (frame_setV s x _).mono (by decide)

/-- Settles O39: no key is pressed iff the list of pressed keys is empty, and else each tie-break picks from it. -/
theorem waitForKeyStoresAPressedKey : Obligations.WaitForKeyStoresAPressedKey := by
  refine fun x s => ⟨fun hnone => ?_, fun ⟨k, hk⟩ => ?_⟩
  · have hempty : s.pressed = [] := List.eq_nil_iff_forall_not_mem.mpr fun k hk =>
      absurd (State.mem_pressed.mp hk) (Bool.eq_false_iff.mp (hnone k))
    refine ⟨_, exec_ldVxK_of_none x hempty, ?_, frame_pc s _⟩
    rw [BitVec.toNat_sub, Nat.add_comm]
    rfl
  · obtain ⟨j, hj, hpick⟩ := pickKey_eq_some s.params.keyTiebreak s.draws (List.ne_nil_of_mem (State.mem_pressed.mpr hk))
    exact ⟨_, exec_ldVxK_of_some x hpick, ⟨j, State.mem_pressed.mp hj, s.toNat_getV_storeKey x j⟩,
      regsExcept_storeKey s x j, frame_storeKey s x j⟩

/-- Settles O40: the pressed keys are listed in rising order, so the least is the first and the greatest the last. -/
theorem keyTiebreakTakesLowestOrHighest : Obligations.KeyTiebreakTakesLowestOrHighest := by
  refine fun x s k hk => ⟨fun hp hmin => ?_, fun hp hmax => ?_⟩
  · have hpick : pickKey s.params.keyTiebreak s.draws s.pressed = some k := by
      rw [hp, pickKey_lowest]
      exact head?_of_least s.pressed_pairwise (State.mem_pressed.mpr hk) fun j hj => hmin j (State.mem_pressed.mp hj)
    exact ⟨_, exec_ldVxK_of_some x hpick, s.toNat_getV_storeKey x k⟩
  · have hpick : pickKey s.params.keyTiebreak s.draws s.pressed = some k := by
      rw [hp, pickKey_highest]
      exact getLast?_of_greatest s.pressed_pairwise (State.mem_pressed.mpr hk)
        fun j hj => hmax j (State.mem_pressed.mp hj)
    exact ⟨_, exec_ldVxK_of_some x hpick, s.toNat_getV_storeKey x k⟩

end Sys2Proof.Machine
end

section
/-! SUPPORT. The access checks on the addresses from I, what the stores of FX33 and FX55 leave, and the statements of
43_memory_index.md and of 20_memory.md section 3. -/

namespace Sys2Proof.Machine

/-! ## Access checks on the addresses from I -/

/-- A block of addresses inside memory may be read (R53). -/
theorem State.readable_addrs {s : State} {n : Nat} (h : n = 0 ∨ s.idx.toNat + (n - 1) ≤ 0xFFF) :
    firstFault readCheck (s.addrs n) = none := by
  refine firstFault_none.mpr fun a ha => readCheck_none.mpr ?_
  obtain ⟨k, hk, rfl⟩ := State.mem_addrs.mp ha
  unfold memSize
  omega

/-- A block of addresses inside memory, and outside the reserved region where the policy guards it, may be stored to
(R54). -/
theorem State.writable_addrs {s : State} {n : Nat} (h : s.idx.toNat + n ≤ 0x1000)
    (hp : s.params.reservedWrite = .write ∨ 0x1FF < s.idx.toNat) :
    firstFault (writeCheck s.params.reservedWrite) (s.addrs n) = none := by
  refine firstFault_none.mpr fun a ha => writeCheck_none.mpr ?_
  obtain ⟨k, hk, rfl⟩ := State.mem_addrs.mp ha
  refine ⟨by unfold memSize; omega, fun hlow => hp.resolve_right ?_⟩
  unfold programBase at hlow
  omega

theorem writeCheck_beyond {p : ReservedWritePolicy} {a : Nat} (h : memSize ≤ a) :
    writeCheck p a = some .memOutOfRange := if_neg (by omega)

theorem writeCheck_reserved {a : Nat} (h : a ≤ 0x1FF) : writeCheck .fault a = some .reservedWrite := by
  have hsize : a < memSize := by unfold memSize; omega
  have hbase : a < programBase := by unfold programBase; omega
  rw [writeCheck, if_pos hsize, if_pos ⟨hbase, rfl⟩]

/-- Addresses that pass their check are passed over. -/
theorem firstFault_append {check : Nat → Option FaultKind} {before after : List Nat}
    (h : ∀ a ∈ before, check a = none) : firstFault check (before ++ after) = firstFault check after := by
  induction before with
  | nil => rfl
  | cons a rest ih =>
    rw [List.cons_append, firstFault, h a List.mem_cons_self]
    exact ih fun b hb => h b (List.mem_cons_of_mem a hb)

/-- The first address from I that fails: it fails, and each before it passes (R56, R224). -/
theorem State.firstFault_addrs {s : State} {check : Nat → Option FaultKind} {n j : Nat} {k : FaultKind} (hj : j < n)
    (hk : check (s.idx.toNat + j) = some k) (hbefore : ∀ m, m < j → check (s.idx.toNat + m) = none) :
    firstFault check (s.addrs n) = some (k, s.idx.toNat + j) := by
  obtain ⟨d, rfl⟩ : ∃ d, n = j + (d + 1) := ⟨n - j - 1, by omega⟩
  have hsplit : s.addrs (j + (d + 1)) =
      s.addrs j ++ (s.idx.toNat + j) :: (List.range d).map fun m => s.addr (j + (m + 1)) := by
    simp [State.addrs, List.range_add, List.range_succ_eq_map, State.addr, Function.comp_def]
  rw [hsplit, firstFault_append, firstFault, hk]
  intro a ha
  obtain ⟨m, hm, rfl⟩ := State.mem_addrs.mp ha
  exact hbefore m hm

/-- A block that leaves memory fails first at I, if I is beyond memory, and else at the first address beyond it. -/
theorem State.firstFault_beyond {s : State} {check : Nat → Option FaultKind} {n : Nat} (hn : 0 < n)
    (h : 0xFFF < s.idx.toNat + (n - 1))
    (hbeyond : ∀ a, memSize ≤ a → check a = some .memOutOfRange)
    (hinside : ∀ a, s.idx.toNat ≤ a → a < memSize → check a = none) :
    firstFault check (s.addrs n) = some (.memOutOfRange, max s.idx.toNat 0x1000) := by
  have hmax : max s.idx.toNat 0x1000 = s.idx.toNat + (0x1000 - s.idx.toNat) := by omega
  rw [hmax]
  refine State.firstFault_addrs (by omega) (hbeyond _ ?_) fun m hm => hinside _ (by omega) ?_
  all_goals unfold memSize; omega

/-- Sixteen bytes that leave memory lie outside the reserved region, so only the end of memory is in their way. -/
theorem State.firstFault_write_beyond {s : State} {n : Nat} (hn : 0 < n) (hn' : n ≤ 16)
    (h : 0xFFF < s.idx.toNat + (n - 1)) :
    firstFault (writeCheck s.params.reservedWrite) (s.addrs n) = some (.memOutOfRange, max s.idx.toNat 0x1000) := by
  refine State.firstFault_beyond hn h (fun a => writeCheck_beyond) fun a ha hsize => writeCheck_none.mpr ⟨hsize, ?_⟩
  intro hlow
  unfold programBase at hlow
  omega

theorem State.firstFault_write_reserved {s : State} {n : Nat} (hn : 0 < n) (hp : s.params.reservedWrite = .fault)
    (h : s.idx.toNat ≤ 0x1FF) :
    firstFault (writeCheck s.params.reservedWrite) (s.addrs n) = some (.reservedWrite, s.idx.toNat) :=
  State.firstFault_addrs hn (hp ▸ writeCheck_reserved h) fun _ hm => absurd hm (Nat.not_lt_zero _)

theorem State.firstFault_read_beyond {s : State} {n : Nat} (hn : 0 < n) (h : 0xFFF < s.idx.toNat + (n - 1)) :
    firstFault readCheck (s.addrs n) = some (.memOutOfRange, max s.idx.toNat 0x1000) :=
  State.firstFault_beyond hn h (fun _ ha => readCheck_some.mpr ⟨ha, rfl⟩) fun _ _ ha => readCheck_none.mpr ha

/-- An instruction with memory accesses takes the fault of its first failing address (R56, R106, R223). -/
theorem faultTaken_of_firstFault {i : Instr} {s done : State} {check : Nat → Option FaultKind} {as : List Nat}
    {k : FaultKind} {a : Nat} (hexec : exec i s = s.accessing check as done)
    (h : firstFault check as = some (k, a)) : ∃ t, exec i s = .next t ∧ FaultTaken s t (recordOf s k a) :=
  ⟨_, hexec.trans ((State.accessing_fault h).trans (s.raise_eq k a)), faultTaken_takeFault s k a⟩

/-! ## Blocks of stores -/

/-- A block of writes leaves every address outside it alone. -/
theorem Memory.read_writeAll_of_outside (m : Memory) (a : Nat) (bs : List Byte) (c : Nat)
    (h : c < a ∨ a + bs.length ≤ c) : (m.writeAll a bs).read c = m.read c := by
  induction bs generalizing m a with
  | nil => rfl
  | cons b bs ih =>
    rw [List.length_cons] at h
    rw [Memory.writeAll, ih (m.write a b) (a + 1) (by omega), Memory.read_write_of_ne m a b c (by omega)]

/-- The three digits are one block of writes from I (R173). -/
theorem State.storeDigits_mem (s : State) (b : Byte) :
    (s.storeDigits b).mem = s.mem.writeAll s.idx.toNat [hundreds b, tens b, ones b] := rfl

theorem memExcept_storeDigits (s : State) (b : Byte) : MemExcept s.idx.toNat 3 s (s.storeDigits b) :=
  fun c hc => (congrArg (Memory.read · c) (s.storeDigits_mem b)).trans
    (Memory.read_writeAll_of_outside s.mem s.idx.toNat [hundreds b, tens b, ones b] c hc)

theorem frame_storeDigits (s : State) (b : Byte) : Frame [.mem] s (s.storeDigits b) := frame_mem s _

theorem memExcept_storeRegs (n : Nat) (s : State) : MemExcept s.idx.toNat n s (s.storeRegs n) := by
  induction n with
  | zero => exact fun _ _ => rfl
  | succ n ih =>
    intro c hc
    rw [State.storeRegs, State.readByte_writeByte_of_ne _ _ _ _ (by unfold State.addr; omega), ih c (by omega)]

/-! ## The index register -/

theorem exec_addI (x : Reg) (s : State) : exec (.addI x) s = .next { s with idx := s.idx + wordOfByte (s.getV x) } := rfl

/-- Settles O27: a 16-bit sum is the sum modulo 2^16. -/
theorem addToIndexWrapsWithoutFlag : Obligations.AddToIndexWrapsWithoutFlag := by
  refine fun x s => ⟨_, exec_addI x s, ?_, frame_idx s _⟩
  have hb : (wordOfByte (s.getV x)).toNat = (s.getV x).toNat := BitVec.toNat_setWidth_of_le (by decide)
  rw [BitVec.toNat_add, hb]

/-! ## Decimal digits -/

theorem exec_ldB (x : Reg) (s : State) : exec (.ldB x) s =
    s.accessing (writeCheck s.params.reservedWrite) (s.addrs 3) (s.storeDigits (s.getV x)) := rfl

/-- Three digits, the most significant first, stand for the byte (R173). -/
theorem toNat_digits (b : Byte) : 100 * (hundreds b).toNat + 10 * (tens b).toNat + (ones b).toNat = b.toNat ∧
    (hundreds b).toNat ≤ 2 ∧ (tens b).toNat ≤ 9 ∧ (ones b).toNat ≤ 9 := by
  have hlt := b.isLt
  simp only [hundreds, tens, ones, BitVec.toNat_ofNat]
  omega

/-- The digits stand at I, I + 1 and I + 2 (R173). -/
theorem State.readByte_storeDigits {s : State} (hmem : MemoryCanonical s) (h : s.idx.toNat + 2 ≤ 0xFFF) (b : Byte) :
    (s.storeDigits b).readByte s.idx.toNat = hundreds b ∧ (s.storeDigits b).readByte (s.idx.toNat + 1) = tens b ∧
      (s.storeDigits b).readByte (s.idx.toNat + 2) = ones b := by
  have hread : ∀ k, (s.storeDigits b).readByte (s.idx.toNat + k) =
      [hundreds b, tens b, ones b].getD k (s.readByte (s.idx.toNat + k)) := by
    intro k
    have hwrite := Memory.read_writeAll s.mem s.idx.toNat [hundreds b, tens b, ones b] (s.idx.toNat + k) hmem
      (by simp only [memSize, List.length_cons, List.length_nil]; omega)
    rw [if_pos (Nat.le_add_right _ _), Nat.add_sub_cancel_left] at hwrite
    rw [State.readByte, State.storeDigits_mem]
    exact hwrite
  exact ⟨hread 0, hread 1, hread 2⟩

/-- Settles O28: the three stores are one block of digits. -/
theorem decimalDigitsAreStored : Obligations.DecimalDigitsAreStored := by
  intro x s hmem h hp
  obtain ⟨h0, h1, h2⟩ := State.readByte_storeDigits hmem h (s.getV x)
  obtain ⟨hvalue, hhundreds, htens, hones⟩ := toNat_digits (s.getV x)
  refine ⟨_, (exec_ldB x s).trans (State.accessing_ok (State.writable_addrs (by omega) hp)), ?_⟩
  rw [h0, h1, h2]
  exact ⟨hvalue, hhundreds, htens, hones, memExcept_storeDigits s _, frame_storeDigits s _⟩

/-! ## Register dump and load -/

theorem exec_dump (x : Reg) (s : State) : exec (.dump x) s = s.accessing (writeCheck s.params.reservedWrite)
    (s.addrs (x.val + 1)) ((s.storeRegs (x.val + 1)).setIdxPast x) := rfl

theorem exec_load (x : Reg) (s : State) : exec (.load x) s =
    s.accessing readCheck (s.addrs (x.val + 1)) ((s.loadRegs (x.val + 1)).setIdxPast x) := rfl

theorem exec_dump_of_writable (x : Reg) {s : State} (h : s.idx.toNat + x.val ≤ 0xFFF)
    (hp : s.params.reservedWrite = .write ∨ 0x1FF < s.idx.toNat) :
    exec (.dump x) s = .next ((s.storeRegs (x.val + 1)).setIdxPast x) :=
  (exec_dump x s).trans (State.accessing_ok (State.writable_addrs (by omega) hp))

theorem exec_load_of_readable (x : Reg) {s : State} (h : s.idx.toNat + x.val ≤ 0xFFF) :
    exec (.load x) s = .next ((s.loadRegs (x.val + 1)).setIdxPast x) :=
  (exec_load x s).trans (State.accessing_ok (State.readable_addrs (Or.inr h)))

theorem State.setIdxPast_toNat (s : State) (x : Reg) : (s.setIdxPast x).idx.toNat = x.val + 1 := by
  rw [State.setIdxPast_idx, BitVec.toNat_ofNat]
  omega

/-- What FX55 leaves where register `k` belongs (R174). -/
theorem State.readByte_dump {s : State} {x k : Reg} (hmem : MemoryCanonical s) (h : s.idx.toNat + x.val ≤ 0xFFF)
    (hk : k ≤ x) : ((s.storeRegs (x.val + 1)).setIdxPast x).readByte (s.idx.toNat + k.val) = s.getV k := by
  have hk' : k.val ≤ x.val := hk
  have hstore := State.readByte_storeRegs (x.val + 1) s hmem (by unfold memSize; omega) (s.idx.toNat + k.val)
  rw [if_pos (by omega), Nat.add_sub_cancel_left, Fin.ofNat_val_eq_self] at hstore
  exact hstore

/-- What FX65 leaves in each register (R175). -/
theorem State.getV_load (s : State) (x k : Reg) : ((s.loadRegs (x.val + 1)).setIdxPast x).getV k =
    if k ≤ x then s.readByte (s.idx.toNat + k.val) else s.getV k := by
  rw [State.getV_setIdxPast, State.getV_loadRegs (x.val + 1) s (by omega)]
  exact if_congr Nat.lt_succ_iff rfl rfl

theorem frame_dump (n : Nat) (s : State) (x : Reg) : Frame [.mem, .idx] s ((s.storeRegs n).setIdxPast x) :=
  (frame_storeRegs n s).append (frame_setIdxPast _ x)

theorem frame_load (n : Nat) (s : State) (x : Reg) : Frame [.v, .idx] s ((s.loadRegs n).setIdxPast x) :=
  (frame_loadRegs n s).append (frame_setIdxPast _ x)

/-- Settles O29: every address passes its check, or the first that fails decides. -/
theorem registerDumpStoresRange : Obligations.RegisterDumpStoresRange := by
  refine ⟨fun x s => ⟨fun hmem h hp => ?_, fun h => ?_, fun hp h => ?_⟩,
    decodesAs_of_key (by decide) fun op hkey => by rw [decodeWord, hkey]; rfl⟩
  · exact ⟨_, exec_dump_of_writable x h hp, fun _ hk => State.readByte_dump hmem h hk, State.setIdxPast_toNat _ x,
      memExcept_storeRegs (x.val + 1) s, frame_dump _ s x⟩
  · exact faultTaken_of_firstFault (exec_dump x s) (State.firstFault_write_beyond x.val.succ_pos x.isLt h)
  · exact faultTaken_of_firstFault (exec_dump x s) (State.firstFault_write_reserved x.val.succ_pos hp h)

/-- Settles O30: every address passes its check, or the first that fails decides. -/
theorem registerLoadReadsRange : Obligations.RegisterLoadReadsRange := by
  refine ⟨fun x s => ⟨fun h => ?_, fun h => ?_⟩,
    decodesAs_of_key (by decide) fun op hkey => by rw [decodeWord, hkey]; rfl⟩
  · exact ⟨_, exec_load_of_readable x h, fun k hk => (s.getV_load x k).trans (if_pos hk),
      fun k hk => (s.getV_load x k).trans (if_neg (not_le_of_gt hk)), State.setIdxPast_toNat _ x, frame_load _ s x⟩
  · exact faultTaken_of_firstFault (exec_load x s) (State.firstFault_read_beyond x.val.succ_pos h)

/-- Settles O32: the load reads the very bytes that the dump has stored. -/
theorem loadAfterDumpRestoresRegisters : Obligations.LoadAfterDumpRestoresRegisters := by
  intro x s v' hmem h hp
  refine ⟨_, _, exec_dump_of_writable x h hp, exec_load_of_readable x h, fun k hk => ?_, fun k hk => ?_⟩
  · rw [State.getV_load, if_pos hk]
    exact State.readByte_dump hmem h hk
  · rw [State.getV_load, if_neg (not_le_of_gt hk)]
    rfl

/-- Settles O33: the fetch reads the memory that the dump has written. -/
theorem storedBytesAreFetched : Obligations.StoredBytesAreFetched := by
  intro x s k hmem h hp hk
  refine ⟨_, exec_dump_of_writable x h hp, fun u hu hpc => ?_⟩
  have hread : ∀ j, j ≤ x.val → u.readByte (s.idx.toNat + j) = s.getV (Fin.ofNat 16 j) := by
    intro j hj
    have hval : (Fin.ofNat 16 j).val = j := Nat.mod_eq_of_lt (by omega)
    have hdump := State.readByte_dump (k := Fin.ofNat 16 j) hmem h (Fin.le_def.mpr (hval.symm ▸ hj))
    rw [hval] at hdump
    exact (State.readByte_congr hu _).trans hdump
  rw [State.fetchWord, hpc, hread k (by omega), Nat.add_assoc, hread (k + 1) hk]
  rfl

end Sys2Proof.Machine
end

section
/-! SUPPORT. Drawing as the inversion of a set of cells: how one cell, one row and a whole sprite are inverted, and the
statements of 44_graphics.md on DRW, with the fault of a failing address that it shares with LD B. -/

namespace Sys2Proof.Machine

/-! ## Inverting a set of cells -/

/-- From `s` to `t` exactly the cells of `C` are inverted, and VF becomes 1 if one of them was lit and stays if none was
(R191). -/
structure Inverts (C : Fin 32 → Fin 64 → Prop) (s t : State) : Prop where
  inverted : ∀ y x, C y x → t.pixel y x = !s.pixel y x
  kept : ∀ y x, ¬ C y x → t.pixel y x = s.pixel y x
  collision : (∃ y x, C y x ∧ s.pixel y x = true) → t.getV VF = 1
  noCollision : (∀ y x, C y x → s.pixel y x = false) → t.getV VF = s.getV VF

namespace Inverts

theorem empty (s : State) : Inverts (fun _ _ => False) s s where
  inverted _ _ h := h.elim
  kept _ _ _ := rfl
  collision := fun ⟨_, _, h, _⟩ => h.elim
  noCollision _ := rfl

theorem congr {C D : Fin 32 → Fin 64 → Prop} {s t : State} (h : Inverts C s t) (hCD : ∀ y x, D y x ↔ C y x) :
    Inverts D s t := by
  have e : D = C := funext fun y => funext fun x => propext (hCD y x)
  exact e ▸ h

/-- Inverting two disjoint sets one after the other inverts their union: the second finds its cells as they were. -/
theorem union {C D : Fin 32 → Fin 64 → Prop} {s t u : State} (h : Inverts C s t) (h' : Inverts D t u)
    (hdisj : ∀ y x, C y x → ¬ D y x) : Inverts (fun y x => C y x ∨ D y x) s u where
  inverted y x hxy := by
    obtain hC | hD := hxy
    · rw [h'.kept y x (hdisj y x hC), h.inverted y x hC]
    · rw [h'.inverted y x hD, h.kept y x fun hC => hdisj y x hC hD]
  kept y x hxy := by
    rw [h'.kept y x fun hD => hxy (Or.inr hD), h.kept y x fun hC => hxy (Or.inl hC)]
  collision := by
    rintro ⟨y, x, hxy, hlit⟩
    by_cases hD : ∃ y x, D y x ∧ t.pixel y x = true
    · exact h'.collision hD
    · have hnone : ∀ y x, D y x → t.pixel y x = false :=
        fun y x hyx => Bool.eq_false_iff.mpr fun e => hD ⟨y, x, hyx, e⟩
      rw [h'.noCollision hnone]
      obtain hC | hD := hxy
      · exact h.collision ⟨y, x, hC, hlit⟩
      · have hkept := h.kept y x fun hC => hdisj y x hC hD
        rw [hnone y x hD, hlit] at hkept
        cases hkept
  noCollision hnone := by
    rw [h'.noCollision, h.noCollision fun y x hC => hnone y x (Or.inl hC)]
    intro y x hD
    rw [h.kept y x fun hC => hdisj y x hC hD, hnone y x (Or.inr hD)]

end Inverts

/-! ## One cell, one row, a sprite -/

theorem State.getV_plot (s : State) (y : Fin 32) (x : Fin 64) (r : Reg) :
    (s.plot y x).getV r = if s.pixel y x = true ∧ r = VF then 1 else s.getV r := by
  unfold State.plot
  rw [State.getV_setPixel]
  split
  · next h => simp [h, State.getV_setV]
  · next h => simp [h]

/-- A set sprite bit inverts its own cell (R191). -/
theorem inverts_plot (s : State) (y : Fin 32) (x : Fin 64) :
    Inverts (fun py px => py = y ∧ px = x) s (s.plot y x) := by
  have hpixel : ∀ py px, (s.plot y x).pixel py px = if py = y ∧ px = x then !s.pixel y x else s.pixel py px := by
    intro py px
    unfold State.plot
    rw [State.pixel_setPixel]
    split
    · rfl
    · split <;> rfl
  constructor
  case inverted =>
    rintro py px ⟨rfl, rfl⟩
    rw [hpixel, if_pos ⟨rfl, rfl⟩]
  case kept =>
    intro py px h
    rw [hpixel, if_neg h]
  case collision =>
    rintro ⟨py, px, ⟨rfl, rfl⟩, hlit⟩
    rw [State.getV_plot, if_pos ⟨hlit, rfl⟩]
  case noCollision =>
    intro hnone
    rw [State.getV_plot, if_neg]
    simp [hnone y x ⟨rfl, rfl⟩]

/-- The first `n` bits of a sprite byte have one set over the cell (R191). -/
def BitsCover (vx : Byte) (y : Fin 32) (b : Byte) (n : Nat) (py : Fin 32) (px : Fin 64) : Prop :=
  py = y ∧ ∃ c, c < n ∧ px = colAt vx c ∧ spriteBit b c = true

theorem bitsCover_succ {vx : Byte} {y : Fin 32} {b : Byte} {n : Nat} {py : Fin 32} {px : Fin 64} :
    BitsCover vx y b (n + 1) py px ↔
      BitsCover vx y b n py px ∨ (py = y ∧ px = colAt vx n) ∧ spriteBit b n = true := by
  constructor
  · rintro ⟨hy, c, hc, hpx, hbit⟩
    obtain hlt | rfl := Nat.lt_succ_iff_lt_or_eq.mp hc
    · exact Or.inl ⟨hy, c, hlt, hpx, hbit⟩
    · exact Or.inr ⟨⟨hy, hpx⟩, hbit⟩
  · rintro (⟨hy, c, hc, hpx, hbit⟩ | ⟨⟨hy, hpx⟩, hbit⟩)
    · exact ⟨hy, c, Nat.lt_succ_of_lt hc, hpx, hbit⟩
    · exact ⟨hy, n, n.lt_succ_self, hpx, hbit⟩

/-- The eight columns of a sprite are different ones (R191). -/
theorem colAt_injective {vx : Byte} {c c' : Nat} (hc : c < 64) (hc' : c' < 64) (h : colAt vx c = colAt vx c') :
    c = c' := by
  have hval : (vx.toNat + c) % 64 = (vx.toNat + c') % 64 := congrArg Fin.val h
  omega

/-- The rows of a sprite are different ones (R191). -/
theorem rowAt_injective {vy : Byte} {r r' : Nat} (hr : r < 32) (hr' : r' < 32) (h : rowAt vy r = rowAt vy r') :
    r = r' := by
  have hval : (vy.toNat + r) % 32 = (vy.toNat + r') % 32 := congrArg Fin.val h
  omega

theorem inverts_drawBits (vx : Byte) (y : Fin 32) (b : Byte) (n : Nat) (hn : n ≤ 64) (s : State) :
    Inverts (BitsCover vx y b n) s (State.drawBits vx y b n s) := by
  induction n with
  | zero => exact (Inverts.empty s).congr fun _ _ => ⟨fun ⟨_, _, hc, _⟩ => absurd hc (Nat.not_lt_zero _), False.elim⟩
  | succ n ih =>
    have ih := ih (by omega)
    simp only [State.drawBits]
    split
    · next hbit =>
      refine (ih.union (inverts_plot _ y (colAt vx n)) ?_).congr fun py px => by simp [bitsCover_succ, hbit]
      rintro py px ⟨-, c, hc, hpx, -⟩ ⟨-, hpx'⟩
      exact absurd (colAt_injective (by omega) (by omega) (hpx.symm.trans hpx')) (Nat.ne_of_lt hc)
    · next hbit => exact ih.congr fun py px => by simp [bitsCover_succ, hbit]

theorem spriteCovers_iff {s : State} {vx vy : Byte} {n : Nat} {py : Fin 32} {px : Fin 64} :
    SpriteCovers s vx vy n py px ↔ ∃ r, r < n ∧ BitsCover vx (rowAt vy r) (s.readByte (s.addr r)) 8 py px := by
  constructor
  · rintro ⟨r, c, hr, hc, hy, hx, hbit⟩
    exact ⟨r, hr, Fin.ext hy, c, hc, Fin.ext hx, hbit⟩
  · rintro ⟨r, hr, hy, c, hc, hx, hbit⟩
    exact ⟨r, c, hr, hc, congrArg Fin.val hy, congrArg Fin.val hx, hbit⟩

theorem spriteCovers_succ {s : State} {vx vy : Byte} {n : Nat} {py : Fin 32} {px : Fin 64} :
    SpriteCovers s vx vy (n + 1) py px ↔
      SpriteCovers s vx vy n py px ∨ BitsCover vx (rowAt vy n) (s.readByte (s.addr n)) 8 py px := by
  simp only [spriteCovers_iff, Nat.lt_succ_iff_lt_or_eq, or_and_right, exists_or, exists_eq_left]

/-- The loop over the rows inverts the cells under the sprite (R191). -/
theorem inverts_drawRows (vx vy : Byte) (n : Nat) (hn : n ≤ 32) (s : State) :
    Inverts (SpriteCovers s vx vy n) s (State.drawRows vx vy n s) := by
  induction n with
  | zero => exact (Inverts.empty s).congr fun _ _ => ⟨fun ⟨_, _, hr, _⟩ => absurd hr (Nat.not_lt_zero _), False.elim⟩
  | succ n ih =>
    have hrow := inverts_drawBits vx (rowAt vy n) (s.readByte (s.addr n)) 8 (by decide) (State.drawRows vx vy n s)
    refine ((ih (by omega)).union hrow ?_).congr fun _ _ => spriteCovers_succ
    intro py px hcover hbits
    obtain ⟨r, hr, hy, -⟩ := spriteCovers_iff.mp hcover
    exact absurd (rowAt_injective (by omega) (by omega) (hy.symm.trans hbits.1)) (Nat.ne_of_lt hr)

/-! ## VF is the only register that drawing writes -/

theorem RegsExcept.trans {L : List Reg} {s t u : State} (h : RegsExcept L s t) (h' : RegsExcept L t u) :
    RegsExcept L s u :=
  fun r hr => (h' r hr).trans (h r hr)

theorem regsExcept_plot (s : State) (y : Fin 32) (x : Fin 64) : RegsExcept [VF] s (s.plot y x) := by
  intro r hr
  rw [State.getV_plot, if_neg fun e => hr (List.mem_singleton.mpr e.2)]

theorem regsExcept_drawBits (vx : Byte) (y : Fin 32) (b : Byte) (n : Nat) (s : State) :
    RegsExcept [VF] s (State.drawBits vx y b n s) := by
  induction n with
  | zero => exact fun _ _ => rfl
  | succ n ih =>
    simp only [State.drawBits]
    split
    · exact ih.trans (regsExcept_plot _ y _)
    · exact ih

theorem regsExcept_drawRows (vx vy : Byte) (n : Nat) (s : State) :
    RegsExcept [VF] s (State.drawRows vx vy n s) := by
  induction n with
  | zero => exact fun _ _ => rfl
  | succ n ih => exact ih.trans (regsExcept_drawBits vx _ _ 8 _)

/-! ## DRW -/

/-- DRW reads a coordinate from VF after the reset of VF only under `after_vf_reset` (R191, D9). -/
theorem State.getV_coordState (s : State) (r : Reg) : s.coordState.getV r = drawCoord s r := by
  unfold State.coordState drawCoord
  split
  · next h => simp [h]
  · next h => simp [h, State.getV_setV]

/-- A coordinate in another register than VF is the same under both values of DRAW_COORD_READ. -/
theorem drawCoord_of_ne (s : State) {r : Reg} (h : r ≠ VF) : drawCoord s r = s.getV r := if_neg fun e => h e.2

theorem exec_drw (x y : Reg) (n : Nat) (s : State) : exec (.drw x y n) s =
    s.accessing readCheck (s.addrs n) (State.drawRows (drawCoord s x) (drawCoord s y) n (s.setV VF 0)) := by
  rw [← State.getV_coordState, ← State.getV_coordState]
  rfl

/-- Settles O31: no store and no draw is made before the checks. -/
theorem digitAndSpriteAccessFaults : Obligations.DigitAndSpriteAccessFaults := by
  refine ⟨fun x s h => ?_, fun x s hp h => ?_, fun x y n s hn hn' h => ?_⟩
  · exact faultTaken_of_firstFault (exec_ldB x s) (State.firstFault_write_beyond (by decide) (by decide) h)
  · exact faultTaken_of_firstFault (exec_ldB x s) (State.firstFault_write_reserved (by decide) hp h)
  · exact faultTaken_of_firstFault (exec_drw x y n s) (State.firstFault_read_beyond hn h)

theorem frame_drw (vx vy : Byte) (n : Nat) (s : State) :
    Frame [.v, .fb] s (State.drawRows vx vy n (s.setV VF 0)) :=
  ((frame_setV s VF 0).mono (by decide)).trans (frame_drawRows vx vy n _)

theorem regsExcept_drw (vx vy : Byte) (n : Nat) (s : State) :
    RegsExcept [VF] s (State.drawRows vx vy n (s.setV VF 0)) :=
  (regsExcept_setV s VF 0).trans (regsExcept_drawRows vx vy n _)

/-- Settles O35: the reset of VF does not touch the sprite or the frame buffer. -/
theorem drawInvertsCoveredCells : Obligations.DrawInvertsCoveredCells := by
  intro x y n s hn h
  have hdraw := inverts_drawRows (drawCoord s x) (drawCoord s y) n (by omega) (s.setV VF 0)
  refine ⟨_, (exec_drw x y n s).trans (State.accessing_ok (State.readable_addrs h)), hdraw.inverted, hdraw.kept,
    hdraw.collision, fun hnone => (hdraw.noCollision hnone).trans (State.getV_setV_same s VF 0),
    regsExcept_drw _ _ n s, frame_drw _ _ n s⟩

/-- Settles O36: the second draw finds the same sprite at the same place, so it inverts the same cells again. -/
theorem drawTwiceRestoresFrameBuffer : Obligations.DrawTwiceRestoresFrameBuffer := by
  intro x y n s hx hy hn h
  obtain ⟨t, hexec, hinv, hkept, -, -, hregs, hframe⟩ := drawInvertsCoveredCells x y n s hn h
  have hidx : t.idx = s.idx := hframe .idx (by decide)
  have hmem : ∀ a, t.readByte a = s.readByte a := hframe .mem (by decide)
  obtain ⟨u, hexec', hinv', hkept', hlit, -⟩ := drawInvertsCoveredCells x y n t hn (hidx ▸ h)
  have hcoord : ∀ r, r ≠ VF → drawCoord t r = drawCoord s r := fun r hr => by
    rw [drawCoord_of_ne t hr, drawCoord_of_ne s hr, hregs r (by simpa using hr)]
  have hcover : ∀ py px, SpriteCovers t (drawCoord t x) (drawCoord t y) n py px ↔
      SpriteCovers s (drawCoord s x) (drawCoord s y) n py px := by
    intro py px
    simp only [SpriteCovers, hcoord x hx, hcoord y hy, hidx, hmem]
  refine ⟨t, u, hexec, hexec', fun py px => ?_, ?_⟩
  · by_cases hc : SpriteCovers s (drawCoord s x) (drawCoord s y) n py px
    · rw [hinv' py px ((hcover py px).mpr hc), hinv py px hc, Bool.not_not]
    · rw [hkept' py px (mt (hcover py px).mp hc), hkept py px hc]
  · rintro ⟨py, px, hc, hoff⟩
    rw [← drawCoord_of_ne s hx, ← drawCoord_of_ne s hy] at hc
    exact hlit ⟨py, px, (hcover py px).mpr hc, by rw [hinv py px hc, hoff]; rfl⟩

end Sys2Proof.Machine
end

section
/-! SUPPORT. What every instruction can do, said once: it completes within the table of writers, or it takes a fault. -/

namespace Sys2Proof.Machine

/-- How many bytes from I an instruction stores (R173, R174). -/
def storeCount : Instr → Nat
  | .ldB _ => 3
  | .dump x => x.val + 1
  | _ => 0

/-- The bounds on `pc` and the stack while an instruction runs: a fetch has advanced `pc` from at most 4094 (R26, R30). -/
def FetchBounded (s : State) : Prop :=
  2 ≤ s.pc.toNat ∧ s.pc.toNat ≤ 4096 ∧ ∀ j : Fin 16, s.stack[j].toNat ≤ 4096

theorem FetchBounded.pcBounded {s : State} : FetchBounded s → PcBounded s :=
  fun ⟨_, hpc, hstack⟩ => ⟨hpc.trans (by decide), hstack⟩

/-- An instruction has completed: its writes are those of the table of writers, its stores have passed their checks, and
canonical memory and bounded addresses are kept. -/
structure Completed (i : Instr) (s t : State) : Prop where
  frame : Frame (writtenParts i) s t
  regs : RegsExcept (writtenRegs s.params i) s t
  stores : MemExcept (s.addr 0) (storeCount i) s t
  checked : ∀ k, k < storeCount i → writeCheck s.params.reservedWrite (s.addr k) = none
  canonical : MemoryCanonical s → MemoryCanonical t
  bounded : FetchBounded s → PcBounded t

/-- An instruction has taken a fault of its own (R106). -/
def Faulted (s t : State) : Prop :=
  ∃ kind info, kind ≠ .uninitRead ∧ t = s.takeFault ⟨kind, s.instrAddr, some s.opcode, info⟩

/-- An outcome is a next state in which the instruction has completed or faulted. -/
def Answers (i : Instr) (s : State) (o : Host.Outcome State Fault Refusal) : Prop :=
  ∃ t, o = .next t ∧ (Completed i s t ∨ Faulted s t)

/-! ## Instructions that store nothing -/

theorem regsExcept_of_frame {L : List Part} {s t : State} (h : Frame L s t) (hv : .v ∉ L) (R : List Reg) :
    RegsExcept R s t :=
  fun r _ => h .v hv r

theorem MemoryCanonical.of_mem_eq {s t : State} (hs : MemoryCanonical s) (h : t.mem = s.mem) : MemoryCanonical t := by
  unfold MemoryCanonical
  rw [h]
  exact hs

/-- What writes neither `pc` nor the stack keeps their bounds. -/
theorem PcBounded.of_frame {L : List Part} {s t : State} (hs : PcBounded s) (h : Frame L s t) (hpc : .pc ∉ L)
    (hstack : .stack ∉ L) : PcBounded t := by
  have hp : t.pc = s.pc := h .pc hpc
  have hst : t.stack = s.stack := h .stack hstack
  unfold PcBounded
  rw [hp, hst]
  exact hs

theorem Completed.of_mem_eq {i : Instr} {s t : State} (hmem : t.mem = s.mem) (hframe : Frame (writtenParts i) s t)
    (hregs : RegsExcept (writtenRegs s.params i) s t) (hbounded : FetchBounded s → PcBounded t)
    (hcount : storeCount i = 0 := by rfl) : Completed i s t where
  frame := hframe
  regs := hregs
  stores c _ := State.readByte_congr hmem c
  checked k hk := absurd (hcount ▸ hk) (Nat.not_lt_zero k)
  canonical h := h.of_mem_eq hmem
  bounded := hbounded

/-- Instructions that write registers, timers, I or the frame buffer. -/
theorem Completed.of_data {i : Instr} {s t : State} (hmem : t.mem = s.mem) (hframe : Frame (writtenParts i) s t)
    (hregs : RegsExcept (writtenRegs s.params i) s t) (hcount : storeCount i = 0 := by rfl)
    (hpc : .pc ∉ writtenParts i := by simp [writtenParts])
    (hstack : .stack ∉ writtenParts i := by simp [writtenParts]) : Completed i s t :=
  .of_mem_eq hmem hframe hregs (fun hs => hs.pcBounded.of_frame hframe hpc hstack) hcount

/-- Instructions that write no register and, of the control state, `pc` alone. -/
theorem Completed.of_pc {i : Instr} {s t : State} (hmem : t.mem = s.mem) (hframe : Frame (writtenParts i) s t)
    (hpc : FetchBounded s → t.pc.toNat ≤ 0x10FE) (hcount : storeCount i = 0 := by rfl)
    (hv : .v ∉ writtenParts i := by simp [writtenParts])
    (hstack : .stack ∉ writtenParts i := by simp [writtenParts]) : Completed i s t := by
  have hst : t.stack = s.stack := hframe .stack hstack
  exact .of_mem_eq hmem hframe (regsExcept_of_frame hframe hv _) (fun h => ⟨hpc h, hst ▸ h.pcBounded.2⟩) hcount

/-! ## The shared operations -/

theorem State.logicFlag_mem (s : State) : s.logicFlag.mem = s.mem := by
  obtain ⟨v, hv⟩ := State.logicFlag_eq s
  rw [hv]

theorem State.writeFlagAndResult_mem (s : State) (x : Reg) (f : Byte) (g : State → Byte) :
    (s.writeFlagAndResult x f g).mem = s.mem := by
  obtain ⟨v, hv⟩ := State.writeFlagAndResult_eq s x f g
  rw [hv]

theorem State.loadRegs_mem (n : Nat) (s : State) : (s.loadRegs n).mem = s.mem := by
  rw [State.loadRegs_eq]

theorem State.drawRows_mem (vx vy : Byte) (n : Nat) (s : State) : (State.drawRows vx vy n s).mem = s.mem := by
  rw [State.drawRows_eq]

theorem State.storeKey_mem (s : State) (x k : Reg) : (s.storeKey x k).mem = s.mem := by
  unfold State.storeKey
  split <;> rfl

theorem skipIf_pc_le {s : State} (c : Bool) (h : FetchBounded s) : (s.skipIf c).pc.toNat ≤ 0x10FE := by
  obtain ⟨-, hpc, -⟩ := h
  rw [State.skipIf_pc_toNat]
  split <;> omega

/-- Skips write `pc` alone (R120). -/
theorem Completed.of_skip {i : Instr} {s : State} (c : Bool) (hparts : writtenParts i = [.pc] := by rfl)
    (hcount : storeCount i = 0 := by rfl) : Completed i s (s.skipIf c) :=
  .of_pc (State.skipIf_mem s c) (hparts ▸ frame_skipIf s c) (skipIf_pc_le c) hcount (by simp [hparts])
    (by simp [hparts])

theorem addrOperand_le (nnn : BitVec 12) : (addrOperand nnn).toNat ≤ 0x10FE := by
  have hlt := nnn.isLt
  rw [addrOperand_toNat]
  omega

theorem Answers.next {i : Instr} {s t : State} (h : Completed i s t) : Answers i s (.next t) := ⟨t, rfl, .inl h⟩

theorem Answers.raise {i : Instr} {s : State} {kind : FaultKind} (info : Nat) (h : kind ≠ .uninitRead) :
    Answers i s (s.raise kind info) :=
  ⟨_, s.raise_eq kind info, .inr ⟨kind, info, h, rfl⟩⟩

theorem readCheck_ne_uninitRead (a : Nat) : readCheck a ≠ some .uninitRead := by
  unfold readCheck
  split <;> simp

theorem writeCheck_ne_uninitRead (p : ReservedWritePolicy) (a : Nat) : writeCheck p a ≠ some .uninitRead := by
  unfold writeCheck
  split
  · split <;> simp
  · simp

/-- An instruction with memory accesses completes, or raises the fault that a check gives (R56). -/
theorem Answers.accessing {i : Instr} {s done : State} {check : Nat → Option FaultKind} {as : List Nat}
    (hcheck : ∀ a, check a ≠ some .uninitRead) (h : firstFault check as = none → Completed i s done) :
    Answers i s (s.accessing check as done) := by
  cases hf : firstFault check as with
  | none =>
    rw [State.accessing_ok hf]
    exact .next (h hf)
  | some ka =>
    obtain ⟨k, a⟩ := ka
    obtain ⟨_, _, _, hk, _⟩ := firstFault_some hf
    rw [State.accessing_fault hf]
    exact .raise a fun e => hcheck a (e ▸ hk)

/-- A key skip completes as a skip, or raises KeyIndexOutOfRange (R206). -/
theorem Answers.skipOnKey {i : Instr} {s : State} (x : Reg) (cond : Bool → Bool)
    (h : ∀ c, Completed i s (s.skipIf c)) : Answers i s (s.skipOnKey x cond) := by
  cases hk : keyIndex s.params.keyIndex (s.getV x) with
  | some k =>
    rw [State.skipOnKey_of_key hk]
    exact .next (h _)
  | none =>
    rw [State.skipOnKey_of_none hk]
    exact .raise _ (by decide)

/-! ## Instructions with a condition -/

theorem answers_ret (s : State) : Answers .ret s (exec .ret s) := by
  by_cases h : s.sp.val = 0
  · rw [exec_ret_of_empty h]
    exact .raise _ (by decide)
  · rw [exec_ret_of_entry h]
    exact .next (.of_pc rfl (frame_pop s _ _) fun ⟨_, _, hstack⟩ =>
      (hstack ⟨s.sp.val - 1, by omega⟩).trans (by decide))

theorem answers_call (nnn : BitVec 12) (s : State) : Answers (.call nnn) s (exec (.call nnn) s) := by
  by_cases h : s.sp.val < 16
  · rw [exec_call_of_room nnn h]
    have hframe := frame_push_pc s s.pc (addrOperand nnn) h
    refine .next (.of_mem_eq rfl hframe (regsExcept_of_frame hframe (by decide) _)
      fun ⟨_, hpc, hstack⟩ => ⟨addrOperand_le nnn, fun j => ?_⟩)
    have hentry := s.push_stack s.pc h j
    rw [show ({ s.push s.pc h with pc := addrOperand nnn } : State).stack[j] = _ from hentry]
    split
    · exact hpc
    · exact hstack j
  · rw [exec_call_of_full nnn h]
    exact .raise _ (by decide)

theorem answers_ldVxK (x : Reg) (s : State) : Answers (.ldVxK x) s (exec (.ldVxK x) s) := by
  by_cases h : s.pressed = []
  · rw [exec_ldVxK_of_none x h]
    refine .next (.of_mem_eq rfl ((frame_pc s _).mono (L' := [.v, .pc, .draws]) (by decide)) (fun _ _ => rfl)
      fun ⟨hlow, hpc, hstack⟩ => ⟨?_, hstack⟩)
    have hle : (2 : Word) ≤ s.pc := BitVec.le_def.mpr hlow
    rw [BitVec.toNat_sub_of_le hle]
    exact (Nat.sub_le _ _).trans (hpc.trans (by decide))
  · obtain ⟨k, -, hpick⟩ := pickKey_eq_some s.params.keyTiebreak s.draws h
    rw [exec_ldVxK_of_some x hpick]
    have hframe := frame_storeKey s x k
    exact .next (.of_mem_eq (s.storeKey_mem x k) (hframe.mono (L' := [.v, .pc, .draws]) (by decide))
      (regsExcept_storeKey s x k) fun hs => hs.pcBounded.of_frame hframe (by decide) (by decide))

/-! ## Instructions that store -/

theorem completed_ldB {x : Reg} {s : State}
    (h : firstFault (writeCheck s.params.reservedWrite) (s.addrs 3) = none) :
    Completed (.ldB x) s (s.storeDigits (s.getV x)) := by
  have hcheck : ∀ k, k < 3 → writeCheck s.params.reservedWrite (s.addr k) = none :=
    fun k hk => firstFault_none.mp h _ (State.mem_addrs.mpr ⟨k, hk, rfl⟩)
  have hlast := (writeCheck_none.mp (hcheck 2 (by decide))).1
  have hframe := frame_storeDigits s (s.getV x)
  exact {
    frame := hframe
    regs := regsExcept_of_frame hframe (by decide) _
    stores := memExcept_storeDigits s _
    checked := hcheck
    canonical := fun hs => Memory.wf_writeAll s.mem s.idx.toNat [_, _, _] hs hlast
    bounded := fun hs => hs.pcBounded.of_frame hframe (by decide) (by decide) }

theorem completed_dump {x : Reg} {s : State}
    (h : firstFault (writeCheck s.params.reservedWrite) (s.addrs (x.val + 1)) = none) :
    Completed (.dump x) s ((s.storeRegs (x.val + 1)).setIdxPast x) := by
  have hcheck : ∀ k, k < x.val + 1 → writeCheck s.params.reservedWrite (s.addr k) = none :=
    fun k hk => firstFault_none.mp h _ (State.mem_addrs.mpr ⟨k, hk, rfl⟩)
  have hlast := (writeCheck_none.mp (hcheck x.val (Nat.lt_succ_self _))).1
  have hframe := frame_dump (x.val + 1) s x
  exact {
    frame := hframe
    regs := regsExcept_of_frame hframe (by decide) _
    stores := memExcept_storeRegs (x.val + 1) s
    checked := hcheck
    canonical := fun hs => State.storeRegs_wf (x.val + 1) s hs hlast
    bounded := fun hs => hs.pcBounded.of_frame hframe (by decide) (by decide) }

/-! ## All instructions -/

theorem completed_load (x : Reg) (s : State) :
    Completed (.load x) s ((s.loadRegs (x.val + 1)).setIdxPast x) := by
  refine .of_data (s.loadRegs_mem _) (frame_load _ s x) fun r hr => ?_
  have hr : ¬ r ≤ x := by simpa [writtenRegs] using hr
  rw [State.getV_load, if_neg hr]

theorem completed_drw (x y : Reg) (n : Nat) (vx vy : Byte) (s : State) :
    Completed (.drw x y n) s (State.drawRows vx vy n (s.setV VF 0)) := by
  exact .of_data (State.drawRows_mem vx vy n _) (frame_drw vx vy n s) (regsExcept_drw vx vy n s)

/-- Every instruction answers a next state, in which it has completed or taken a fault. -/
theorem exec_answers (i : Instr) (s : State) : Answers i s (exec i s) := by
  cases i
  case cls => exact .next (.of_data rfl (frame_fb s _) fun _ _ => rfl)
  case ret => exact answers_ret s
  case jp nnn => exact .next (.of_pc rfl (frame_pc s _) fun _ => addrOperand_le nnn)
  case call nnn => exact answers_call nnn s
  case seImm | sneImm | seReg | sneReg => exact .next (.of_skip _)
  case ldImm | addImm | ldReg | ldVxDT => exact .next (.of_data rfl (frame_setV s _ _) (regsExcept_setV s _ _))
  case orReg | andReg | xorReg =>
    exact .next (.of_data (State.logicFlag_mem _) (frame_setV_logicFlag s _ _) (regsExcept_setV_logicFlag s _ _))
  case addReg | sub | shr | subn | shl =>
    exact .next (.of_data (State.writeFlagAndResult_mem s _ _ _) (frame_writeFlagAndResult s _ _ _)
      (regsExcept_writeFlagAndResult s _ _ _))
  case ldI | addI | ldF => exact .next (.of_data rfl (frame_idx s _) fun _ _ => rfl)
  case jpV0 nnn =>
    refine .next (.of_pc rfl (frame_pc s _) fun _ => ?_)
    have hb := (s.getV 0).isLt
    have hn := nnn.isLt
    rw [toNat_jumpTarget]
    omega
  case rnd => exact .next (.of_data rfl (frame_setV_countDraw s _ _) (regsExcept_setV_countDraw s _ _))
  case drw x y n => exact .accessing readCheck_ne_uninitRead fun _ => completed_drw x y n _ _ s
  case skp x => exact .skipOnKey (i := .skp x) x (fun pressed => pressed) fun c => .of_skip c
  case sknp x => exact .skipOnKey (i := .sknp x) x (fun pressed => !pressed) fun c => .of_skip c
  case ldVxK x => exact answers_ldVxK x s
  case ldDT => exact .next (.of_data rfl (frame_dt s _) fun _ _ => rfl)
  case ldST => exact .next (.of_data rfl (frame_st s _) fun _ _ => rfl)
  case ldB => exact .accessing (writeCheck_ne_uninitRead _) completed_ldB
  case dump => exact .accessing (writeCheck_ne_uninitRead _) completed_dump
  case load x => exact .accessing readCheck_ne_uninitRead fun _ => completed_load x s

end Sys2Proof.Machine
end

section
/-! SUPPORT. What every step can do, said once, from what every instruction can do; the statements on all instructions and
the invariants of the whole machine. -/

namespace Sys2Proof.Machine

/-! ## The statements on all instructions -/

theorem exec_next_cases {i : Instr} {s t : State} (h : exec i s = .next t) : Completed i s t ∨ Faulted s t := by
  obtain ⟨u, hu, hcases⟩ := exec_answers i s
  obtain rfl := Host.Outcome.next.inj (hu.symm.trans h)
  exact hcases

/-- The parts that some instruction writes; the others are the scheduler's, the host's, or a fault's. -/
theorem writtenParts_subset (i : Instr) :
    writtenParts i ⊆ [.v, .pc, .idx, .sp, .stack, .dt, .st, .fb, .mem, .draws] := by
  cases i <;> simp [writtenParts]

theorem Completed.frame_program {i : Instr} {s t : State} (h : Completed i s t) :
    Frame [.v, .pc, .idx, .sp, .stack, .dt, .st, .fb, .mem, .draws] s t :=
  h.frame.mono (writtenParts_subset i)

theorem Completed.run_eq {i : Instr} {s t : State} (h : Completed i s t) : t.run = s.run :=
  h.frame_program .run (by decide)

/-- A byte of the reserved region fails its check, so under policy `fault` no instruction has stored to it (R54). -/
theorem Completed.keeps_reserved {i : Instr} {s t : State} (h : Completed i s t) (hp : s.params.reservedWrite = .fault)
    {a : Nat} (ha : a ≤ 0x1FF) : t.readByte a = s.readByte a := by
  refine h.stores a ?_
  by_contra hin
  obtain ⟨k, hk, rfl⟩ : ∃ k, k < storeCount i ∧ a = s.addr k :=
    ⟨a - s.addr 0, by omega, by unfold State.addr at *; omega⟩
  have hcheck := h.checked k hk
  rw [hp, writeCheck_reserved ha] at hcheck
  cases hcheck

theorem Faulted.run_eq {s t : State} (h : Faulted s t) : t.run = .stopped := by
  obtain ⟨_, _, _, rfl⟩ := h
  rfl

theorem Faulted.frame {s t : State} (h : Faulted s t) : Frame [.run, .fault] s t := by
  obtain ⟨_, _, _, rfl⟩ := h
  exact frame_takeFault s _

/-- Settles O56: completed or faulted, the answer is a next state. -/
theorem everyInstructionAnswersANextState : Obligations.EveryInstructionAnswersANextState := by
  intro i s
  obtain ⟨t, ht, -⟩ := exec_answers i s
  exact ⟨t, ht⟩

/-- Settles O53: an instruction that completes leaves RUN alone, so one that leaves Running has faulted. -/
theorem everyFaultIsPrecise : Obligations.EveryFaultIsPrecise := by
  intro i s t hr h hstop
  obtain hc | ⟨kind, info, hkind, rfl⟩ := exec_next_cases h
  · exact absurd (hc.run_eq.trans hr) hstop
  · exact ⟨kind, info, hkind, faultTaken_takeFault s kind info⟩

/-- Settles O54: an instruction that is still Running has not faulted, so it has completed. -/
theorem everyInstructionWritesOnlyItsParts : Obligations.EveryInstructionWritesOnlyItsParts := by
  intro i s t _ h hrun
  obtain hc | hf := exec_next_cases h
  · refine ⟨hc.frame, hc.regs, ?_, ?_⟩
    · rintro x rfl
      exact hc.stores
    · rintro x rfl
      exact hc.stores
  · simp [hf.run_eq] at hrun

/-! ## The cycle -/

/-- The activity that is selected runs on the state whose agenda has given it up (R236). -/
theorem step_activity {s : State} {act : Activity} (hr : s.run = .running) (hn : s.nextActivity = act) :
    step s = runActivity act s.dequeued :=
  (step_running hr).trans (congrArg (fun a => runActivity a s.dequeued) hn)

theorem step_cpu {s : State} (hr : s.run = .running) (hn : s.nextActivity = .cpu) : step s = cycle s.dequeued :=
  step_activity hr hn

theorem cycle_of_decodes {s : State} {i : Instr} (hpc : s.pc.toNat ≤ 4094) (h : decodeWord s.fetchWord = some i) :
    cycle s = exec i s.fetched := by
  obtain ⟨hbeyond, -⟩ | ⟨-, hnone, -⟩ | ⟨j, -, hj, hcycle⟩ := cycle_cases s
  · omega
  · simp [h] at hnone
  · obtain rfl : i = j := by simpa [h] using hj
    exact hcycle

theorem cycle_of_unknown {s : State} (hpc : s.pc.toNat ≤ 4094) (h : decodeWord s.fetchWord = none) :
    cycle s = .next s.fetched.reportUnknown := by
  obtain ⟨hbeyond, -⟩ | ⟨-, -, hcycle⟩ | ⟨j, -, hj, -⟩ := cycle_cases s
  · omega
  · exact hcycle
  · simp [h] at hj

theorem cycle_of_beyond {s : State} (hpc : 4094 < s.pc.toNat) : cycle s = .next s.fetchFault := if_pos hpc

theorem frame_dequeued (s : State) : Frame [.agenda] s s.dequeued := frame_agenda s _

theorem frame_fetched (s : State) : Frame [.opcode, .pc] s s.fetched :=
  (frame_opcode s s.fetchWord).append (frame_pc { s with opcode := s.fetchWord } (s.pc + 2))

theorem frame_reportUnknown (s : State) : Frame [.diag] s s.reportUnknown := frame_diag s _

/-- Two bytes that decode with nothing left over join to a word that decodes. -/
theorem decodeWord_of_decode {hi lo : Byte} {i : Instr} (h : decode [hi, lo] = .instr i []) :
    decodeWord (joinBytes hi lo) = some i := by
  rw [decode_cons_cons] at h
  cases hd : decodeWord (joinBytes hi lo) with
  | none => simp [hd] at h
  | some j => simpa [hd] using h

/-- Settles O6: the state named in the statement is the fetched state. -/
theorem stepRunsTheDecodedInstruction : Obligations.StepRunsTheDecodedInstruction :=
  fun s _ hr hn hpc h => (step_cpu hr hn).trans (cycle_of_decodes (s := s.dequeued) hpc (decodeWord_of_decode h))

/-- Settles O7: the check comes before the fetch writes anything. -/
theorem fetchBeyondMemoryFaults : Obligations.FetchBeyondMemoryFaults :=
  fun s hr hn hpc => ⟨_, (step_cpu hr hn).trans (cycle_of_beyond (s := s.dequeued) hpc), rfl, rfl, rfl,
    ((frame_dequeued s).append (frame_takeFault s.dequeued _)).mono (by decide)⟩

/-- Settles O8: the address in the record is where the fetch began. -/
theorem unknownOpcodeIsReportedAndSkipped : Obligations.UnknownOpcodeIsReportedAndSkipped := by
  intro s hr hn hpc h
  refine ⟨_, (step_cpu hr hn).trans (cycle_of_unknown (s := s.dequeued) hpc h), rfl, rfl, ?_, rfl,
    ((frame_dequeued s).append ((frame_fetched _).append (frame_reportUnknown _))).mono (by decide)⟩
  rw [State.reportUnknown_diag, State.fetched_instrAddr]
  rfl

/-! ## Activities other than the CPU -/

theorem frame_timerTick (s : State) : Frame [.dt, .st] s s.timerTick :=
  (frame_dt s (tickDown s.dt)).append (frame_st { s with dt := tickDown s.dt } (tickDown s.st))

theorem frame_inputRefresh (snapshot : Keypad) (quit : Bool) (s : State) :
    Frame [.key, .run] s (s.inputRefresh snapshot quit) :=
  (frame_key s snapshot).append (frame_run { s with key := snapshot } _)

theorem frame_inputFailed (s : State) : Frame [.run] s s.inputFailed := frame_run s _

theorem frame_redrawFailed (s : State) : Frame [.run, .report] s (s.redrawTick true) :=
  (frame_run s .stopped).append (frame_report { s with run := .stopped } _)

/-- What an activity other than the CPU can do: it keeps the program's state, and either stops the machine or keeps RUN
and reports no error (R227, R231 to R239). -/
structure Scheduled (s t : State) : Prop where
  frame : Frame [.dt, .st, .key, .run, .agenda, .report] s t
  mem : t.mem = s.mem
  ends : t.run = .stopped ∨ t.run = s.run ∧ t.report = s.report

theorem scheduled_of_runActivity {act : Activity} {s t : State} (hact : act ≠ .cpu)
    (h : runActivity act s.dequeued = .next t) : Scheduled s t := by
  have hdequeued := frame_dequeued s
  cases act with
  | cpu => exact absurd rfl hact
  | timer =>
    obtain rfl := Host.Outcome.next.inj h
    exact ⟨(hdequeued.append (frame_timerTick _)).mono (by decide), rfl, .inr ⟨rfl, rfl⟩⟩
  | redraw failed =>
    obtain rfl := Host.Outcome.next.inj h
    cases failed
    · exact ⟨hdequeued.mono (by decide), rfl, .inr ⟨rfl, rfl⟩⟩
    · exact ⟨(hdequeued.append (frame_redrawFailed _)).mono (by decide), rfl, .inl rfl⟩
  | input snapshot quit =>
    obtain rfl := Host.Outcome.next.inj h
    refine ⟨(hdequeued.append (frame_inputRefresh snapshot quit _)).mono (by decide), rfl, ?_⟩
    cases quit
    · exact .inr ⟨rfl, rfl⟩
    · exact .inl rfl
  | inputFailure =>
    obtain rfl := Host.Outcome.next.inj h
    exact ⟨(hdequeued.append (frame_inputFailed _)).mono (by decide), rfl, .inl rfl⟩

/-! ## What a step can do -/

/-- The next states of `s`, by what leads there (R236, R260). -/
inductive Stepped (s t : State) : Prop
  | initialised (rom : RomImage) (hrun : s.run = .idle) (ht : t = s.initialise rom)
  | scheduled (hrun : s.run = .running) (ht : Scheduled s t)
  | fetchFault (hrun : s.run = .running) (ht : t = s.dequeued.fetchFault)
  | unknown (hrun : s.run = .running) (hpc : s.pc.toNat ≤ 4094) (hword : decodeWord s.fetchWord = none)
      (ht : t = s.dequeued.fetched.reportUnknown)
  | completed (i : Instr) (hrun : s.run = .running) (hpc : s.pc.toNat ≤ 4094)
      (ht : Completed i s.dequeued.fetched t)
  | faulted (hrun : s.run = .running) (hpc : s.pc.toNat ≤ 4094) (ht : Faulted s.dequeued.fetched t)

theorem stepped_of_step {s t : State} (h : step s = .next t) : Stepped s t := by
  obtain ⟨hrun, rom, -, ht⟩ | ⟨hrun, hact⟩ := step_cases h
  · exact .initialised rom hrun ht
  by_cases hn : s.nextActivity = .cpu
  · have hcycle : cycle s.dequeued = .next t := (step_cpu hrun hn).symm.trans h
    obtain ⟨-, hc⟩ | ⟨hpc, hword, hc⟩ | ⟨i, hpc, -, hc⟩ := cycle_cases s.dequeued
    · exact .fetchFault hrun (Host.Outcome.next.inj (hcycle.symm.trans hc))
    · exact .unknown hrun hpc hword (Host.Outcome.next.inj (hcycle.symm.trans hc))
    · obtain ht | ht := exec_next_cases (hc.symm.trans hcycle)
      · exact .completed i hrun hpc ht
      · exact .faulted hrun hpc ht
  · exact .scheduled hrun (scheduled_of_runActivity hn hact)

/-- Initialisation either ends the run with a load error or loads an image that fits (R261, R262). -/
theorem State.initialise_cases (rom : RomImage) (s : State) :
    s.initialise rom = { s.cleared with run := .stopped, report := some .loadError } ∨
      ∃ bytes, bytes.length ≤ maxRomLength ∧ s.initialise rom =
        { s.cleared with
          mem := s.cleared.mem.writeAll programBase bytes
          pc := BitVec.ofNat 16 programBase
          run := .running } := by
  cases rom with
  | unreadable => exact .inl rfl
  | image bytes =>
    by_cases h : bytes.length > maxRomLength
    · exact .inl (if_pos h)
    · exact .inr ⟨bytes, Nat.le_of_not_lt h, if_neg h⟩

theorem Faulted.mem_eq {s t : State} (h : Faulted s t) : t.mem = s.mem := by
  obtain ⟨_, _, _, rfl⟩ := h
  rfl

/-! ## Invariants -/

/-- Settles O49: the stores of an instruction stay inside memory, and so does an image that fits. -/
theorem stepKeepsMemoryCanonical : Obligations.StepKeepsMemoryCanonical := by
  intro s t hs h
  cases stepped_of_step h with
  | initialised rom _ ht =>
    obtain e | ⟨bytes, hlen, e⟩ := s.initialise_cases rom
    · rw [ht, e]
      rfl
    · rw [ht, e]
      refine Memory.wf_writeAll [] programBase bytes rfl ?_
      unfold programBase memSize
      unfold maxRomLength at hlen
      omega
  | scheduled _ ht => exact hs.of_mem_eq ht.mem
  | fetchFault _ ht => exact ht ▸ hs
  | unknown _ _ _ ht => exact ht ▸ hs
  | completed i _ _ ht => exact ht.canonical hs
  | faulted _ _ ht => exact hs.of_mem_eq ht.mem_eq

/-- A fetch leaves `pc` in reach of one more skip (R26). -/
theorem fetchBounded_fetched {s : State} (hs : PcBounded s) (hpc : s.pc.toNat ≤ 4094) :
    FetchBounded s.dequeued.fetched := by
  have hadd : s.dequeued.fetched.pc.toNat = s.pc.toNat + 2 := by
    rw [State.fetched_pc, State.dequeued_pc, BitVec.toNat_add]
    exact Nat.mod_eq_of_lt (show s.pc.toNat + 2 < 65536 by omega)
  exact ⟨by omega, by omega, hs.2⟩

/-- Settles O50: what an instruction does to `pc` and the stack is bounded from the fetched state on. -/
theorem stepKeepsPcBounded : Obligations.StepKeepsPcBounded := by
  intro s t hs h
  cases stepped_of_step h with
  | initialised rom _ ht =>
    have hstack : ∀ j : Fin 16, s.cleared.stack[j].toNat ≤ 4096 := by simp [State.cleared, State.reset]
    obtain e | ⟨bytes, -, e⟩ := s.initialise_cases rom
    · rw [ht, e]
      exact ⟨Nat.zero_le _, hstack⟩
    · rw [ht, e]
      exact ⟨by simp [programBase], hstack⟩
  | scheduled _ ht => exact hs.of_frame ht.frame (by decide) (by decide)
  | fetchFault _ ht => exact ht ▸ hs
  | unknown _ hpc _ ht => exact ht ▸ (fetchBounded_fetched hs hpc).pcBounded
  | completed i _ hpc ht => exact ht.bounded (fetchBounded_fetched hs hpc)
  | faulted _ hpc ht => exact (fetchBounded_fetched hs hpc).pcBounded.of_frame ht.frame (by decide) (by decide)

/-- On a running machine the invariant says that no fault is recorded and no error reported. -/
theorem faultsStop_iff_of_running {s : State} (hr : s.run = .running) :
    FaultsStop s ↔ s.fault = none ∧ s.report = none := by
  simp [FaultsStop, hr]

theorem faultsStop_of_stopped {s : State} (h : s.run = .stopped) : FaultsStop s := fun _ => h

/-- What keeps FAULT, RUN and the report keeps the invariant. -/
theorem FaultsStop.of_eq {s t : State} (hs : FaultsStop s) (hfault : t.fault = s.fault) (hrun : t.run = s.run)
    (hreport : t.report = s.report) : FaultsStop t := by
  unfold FaultsStop
  rw [hfault, hrun, hreport]
  exact hs

/-- Settles O51: a fault and a report are written only together with RUN = Stopped. -/
theorem stepKeepsFaultsOnStoppedMachines : Obligations.StepKeepsFaultsOnStoppedMachines := by
  intro s t hs h
  cases stepped_of_step h with
  | initialised rom _ ht =>
    obtain e | ⟨bytes, -, e⟩ := s.initialise_cases rom
    · exact faultsStop_of_stopped (by rw [ht, e])
    · rw [ht, e]
      exact (faultsStop_iff_of_running rfl).mpr ⟨rfl, rfl⟩
  | scheduled _ ht =>
    obtain hstop | ⟨hrun, hreport⟩ := ht.ends
    · exact faultsStop_of_stopped hstop
    · exact hs.of_eq (ht.frame .fault (by decide)) hrun hreport
  | fetchFault _ ht => exact faultsStop_of_stopped (ht ▸ rfl)
  | unknown _ _ _ ht => exact ht ▸ hs
  | completed i _ _ ht =>
    have hframe := ht.frame_program
    exact hs.of_eq (hframe .fault (by decide)) ht.run_eq (hframe .report (by decide))
  | faulted _ _ ht => exact faultsStop_of_stopped ht.run_eq

/-! ## Rules of the whole machine -/

/-- Settles O57: only initialisation starts from Idle, and no activity writes Idle. -/
theorem lifecycleNeverReturnsToIdle : Obligations.LifecycleNeverReturnsToIdle := by
  intro s t h
  cases stepped_of_step h with
  | initialised rom hrun ht =>
    obtain e | ⟨bytes, -, e⟩ := s.initialise_cases rom
    · simp [hrun, ht, e]
    · simp [hrun, ht, e]
  | scheduled hrun ht =>
    obtain hstop | ⟨hkept, -⟩ := ht.ends
    · simp [hrun, hstop]
    · simp [hrun, hkept]
  | fetchFault hrun ht => simp [ht, State.fetchFault, hrun]
  | unknown hrun _ _ ht => simp [ht, hrun]
  | completed i hrun _ ht => simp [ht.run_eq, hrun]
  | faulted hrun _ ht => simp [ht.run_eq, hrun]

/-- Settles O58: the parameters are in no frame's list, and initialisation copies them. -/
theorem noStepWritesParameters : Obligations.NoStepWritesParameters := by
  intro s t h
  cases stepped_of_step h with
  | initialised rom _ ht =>
    obtain e | ⟨bytes, -, e⟩ := s.initialise_cases rom
    · rw [ht, e]
      rfl
    · rw [ht, e]
      rfl
  | scheduled _ ht => exact ht.frame .params (by decide)
  | fetchFault _ ht => exact ht ▸ rfl
  | unknown _ _ _ ht => exact ht ▸ rfl
  | completed i _ _ ht => exact ht.frame_program .params (by decide)
  | faulted _ _ ht => exact ht.frame .params (by decide)

/-- Settles O59: DIAG is written by the report of an unknown opcode alone. -/
theorem diagnosticsAreAppendOnly : Obligations.DiagnosticsAreAppendOnly := by
  intro s t hr h
  cases stepped_of_step h with
  | initialised _ hrun _ => simp [hr] at hrun
  | unknown hrun _ hword ht =>
    subst ht
    refine .inr ⟨hrun, hword, ?_⟩
    rw [State.reportUnknown_diag, State.fetched_instrAddr]
    rfl
  | scheduled _ ht => exact .inl (ht.frame .diag (by decide))
  | fetchFault _ ht => exact .inl (ht ▸ rfl)
  | completed i _ _ ht => exact .inl (ht.frame_program .diag (by decide))
  | faulted _ _ ht => exact .inl (ht.frame .diag (by decide))

/-- Settles O55: each byte that an instruction stores has passed its check, which none below 0x200 does. -/
theorem reservedRegionIsReadOnlyWhileRunning : Obligations.ReservedRegionIsReadOnlyWhileRunning := by
  intro s t a hr hp h ha
  cases stepped_of_step h with
  | initialised _ hrun _ => simp [hr] at hrun
  | completed i _ _ ht => exact ht.keeps_reserved hp ha
  | scheduled _ ht => exact State.readByte_congr ht.mem a
  | fetchFault _ ht => exact ht ▸ rfl
  | unknown _ _ _ ht => exact ht ▸ rfl
  | faulted _ _ ht => exact State.readByte_congr ht.mem_eq a

end Sys2Proof.Machine
end

section
/-! SUPPORT. Initialisation, the activities other than the CPU, and the halted machine: the statements of
60_exceptions.md and 70_reset_and_hazards.md. -/

namespace Sys2Proof.Machine

/-! ## Activities other than the CPU -/

/-- Settles O44: it is the frame of a scheduled activity. -/
theorem onlyTheCpuTouchesTheProgram : Obligations.OnlyTheCpuTouchesTheProgram :=
  fun _ _ hr hact h => (scheduled_of_runActivity hact ((step_running hr).symm.trans h)).frame

/-- Settles O42: on a running machine that meets the invariant there is no fault and no report, so the end is normal. -/
theorem inputRefreshReplacesKeypad : Obligations.InputRefreshReplacesKeypad := by
  refine fun s hr => ⟨fun snapshot quit hn => ?_, fun hn => ?_⟩
  · refine ⟨_, step_activity hr hn, fun _ => rfl, ?_, ?_, rfl,
      ((frame_dequeued s).append (frame_inputRefresh snapshot quit _)).mono (by decide)⟩
    · rintro rfl
      exact ⟨rfl, fun hs => ⟨rfl, (faultsStop_iff_of_running hr).mp hs⟩⟩
    · rintro rfl
      exact hr
  · exact ⟨_, step_activity hr hn, rfl, fun hs => ⟨rfl, (faultsStop_iff_of_running hr).mp hs⟩, rfl,
      ((frame_dequeued s).append (frame_inputFailed _)).mono (by decide)⟩

/-- Settles O43: where the Renderer does not fail, only the agenda has changed. -/
theorem redrawChangesNothingOfTheCore : Obligations.RedrawChangesNothingOfTheCore := by
  intro s failed hr hn
  refine ⟨by rw [State.rendererInput, hr, hn], _, step_activity hr hn, ?_, ?_, ?_⟩
  · cases failed <;> rfl
  · rintro rfl
    exact frame_dequeued s
  · rintro rfl
    exact ⟨rfl, ⟨rfl, .inr rfl⟩, ((frame_dequeued s).append (frame_redrawFailed _)).mono (by decide)⟩

/-! ## Initialisation and the state after reset -/

/-- Settles O47: in both states `step` answers before any activity is looked at. -/
theorem noActivityOutsideRunning : Obligations.NoActivityOutsideRunning :=
  fun s => ⟨fun h => by rw [step, h], fun h hl => by rw [step, h]; simp only [idleStep, hl]⟩

theorem step_of_loader {s : State} {rom : RomImage} (hr : s.run = .idle) (hl : s.loader = some rom) :
    step s = .next (s.initialise rom) := by
  rw [step, hr]
  simp only [idleStep, hl]

/-- Where nothing is listed, the font stands at 0x050 (R40, R52). -/
theorem resetByte_font (i : Nat) : resetByte (0x050 + i) = fontTable.getD i 0 := by
  have hle : fontBase ≤ 0x050 + i := Nat.le_add_right _ _
  have hsub : 0x050 + i - fontBase = i := Nat.add_sub_cancel_left _ _
  rw [resetByte, if_pos hle, hsub]
  rfl

/-- Where nothing is listed, every byte outside the font is zero (R40, D1). -/
theorem resetByte_outside {a : Nat} (h : ¬ (0x050 ≤ a ∧ a < 0x0A0)) : resetByte a = 0 := by
  unfold resetByte fontBase
  split
  · refine List.getD_eq_default _ _ ?_
    have hlen : fontTable.length = 80 := by decide
    omega
  · rfl

theorem State.getV_reset (r : Reg) : State.reset.getV r = 0 := by
  simp [State.getV, State.reset, resetFill]

theorem State.stack_reset (j : Fin 16) : State.reset.stack[j] = 0 := by
  simp [State.reset]

theorem State.key_reset (k : Reg) : State.reset.key[k] = false := by
  simp [State.reset]

theorem State.pixel_reset (y : Fin 32) (x : Fin 64) : State.reset.pixel y x = false := State.pixel_of_unlit rfl y x

/-- Settles O48: memory lists no cell, so it reads as the font and zeros. -/
theorem resetStateIsRunningAtEntryPoint : Obligations.ResetStateIsRunningAtEntryPoint :=
  ⟨rfl, rfl, rfl, rfl, fun i _ => resetByte_font i, fun _ => resetByte_outside, State.getV_reset, rfl, rfl,
    State.stack_reset, rfl, rfl, State.key_reset, State.pixel_reset, rfl⟩

/-- Settles O52: no cell is listed, the stack is zero, and nothing is recorded. -/
theorem resetSatisfiesTheInvariants : Obligations.ResetSatisfiesTheInvariants := by
  refine ⟨rfl, ⟨by decide, fun j => ?_⟩, (faultsStop_iff_of_running rfl).mpr ⟨rfl, rfl⟩⟩
  rw [State.stack_reset]
  exact Nat.zero_le _

/-- Settles O45: what is not the image reads as after reset, and the fields are those of reset. -/
theorem initialisationLoadsTheRom : Obligations.InitialisationLoadsTheRom := by
  intro s rom hr hl hlen
  have hread : ∀ a, (Memory.writeAll [] programBase rom).read a =
      if programBase ≤ a then rom.getD (a - programBase) (resetByte a) else resetByte a :=
    fun a => Memory.read_writeAll [] programBase rom a rfl (by unfold programBase memSize; omega)
  have hinit : s.initialise (.image rom) = _ := if_neg (by unfold maxRomLength; omega)
  refine ⟨_, (step_of_loader hr hl).trans (congrArg _ hinit), rfl, rfl, fun i hi => ?_, fun i hi => ?_,
    fun a hfont hrom => ?_, State.getV_reset, rfl, rfl, State.stack_reset, rfl, rfl, State.key_reset, State.pixel_reset,
    rfl, rfl, rfl, rfl, ?_⟩
  · have hle : programBase ≤ 0x200 + i := Nat.le_add_right _ _
    have hsub : 0x200 + i - programBase = i := Nat.add_sub_cancel_left _ _
    refine (hread _).trans ?_
    rw [if_pos hle, hsub, List.getD_eq_getElem _ _ hi, List.getD_eq_getElem _ _ hi]
  · exact (hread _).trans ((if_neg (by unfold programBase; omega)).trans (resetByte_font i))
  · refine (hread a).trans (Eq.trans ?_ (resetByte_outside hfont))
    split
    · next hle => exact List.getD_eq_default _ _ (by unfold programBase at *; omega)
    · rfl
  · intro p hp
    cases p
    case agenda | draws | params => rfl
    all_goals exact absurd (by decide) hp

/-- Settles O46: in both cases the image is not copied. -/
theorem loadErrorStopsBeforeRunning : Obligations.LoadErrorStopsBeforeRunning := by
  intro s rom hr hl hbad
  have hinit : s.initialise rom = { s.cleared with run := .stopped, report := some .loadError } := by
    obtain rfl | ⟨bytes, rfl, hlen⟩ := hbad
    · rfl
    · exact if_pos hlen
  exact ⟨_, (step_of_loader hr hl).trans (congrArg _ hinit), rfl, rfl, rfl, ⟨rfl, .inr rfl⟩,
    fun a ha => resetByte_outside (by omega)⟩

/-! ## The halted machine -/

theorem HaltedAt.run_eq {a : BitVec 12} {s : State} : HaltedAt a s → s.run = .running := fun ⟨hr, _⟩ => hr

theorem HaltedAt.pc_le {a : BitVec 12} {s : State} : HaltedAt a s → s.pc.toNat ≤ 4094 :=
  fun ⟨_, ha, hpc, _⟩ => hpc ▸ ha

theorem HaltedAt.addrOperand_eq {a : BitVec 12} {s : State} : HaltedAt a s → addrOperand a = s.pc :=
  fun ⟨_, _, hpc, _⟩ => BitVec.eq_of_toNat_eq ((addrOperand_toNat a).trans hpc.symm)

/-- In a machine halted at `a` the word to fetch is the encoder's JP to `a` (R265 b). -/
theorem HaltedAt.decodes {a : BitVec 12} {s : State} (h : HaltedAt a s) :
    decodeWord s.fetchWord = some (.jp a) := by
  obtain ⟨-, -, hpc, hword⟩ := h
  have hfetch : s.fetchWord = encode (.jp a) := by
    rw [State.fetchWord, hpc]
    exact hword
  rw [hfetch]
  exact decodeWord_encode (.jp a) rfl

/-- What keeps RUN, `pc` and memory keeps a machine halted. -/
theorem HaltedAt.of_frame {a : BitVec 12} {s t : State} {L : List Part} (h : HaltedAt a s) (hframe : Frame L s t)
    (hrun : .run ∉ L) (hpc : .pc ∉ L) (hmem : .mem ∉ L) : HaltedAt a t := by
  have hr : t.run = s.run := hframe .run hrun
  have hp : t.pc = s.pc := hframe .pc hpc
  have hm : ∀ a, t.readByte a = s.readByte a := hframe .mem hmem
  unfold HaltedAt
  rw [hr, hp, hm, hm]
  exact h

/-- A CPU cycle of a halted machine latches OPCODE and comes back (R265 b). -/
theorem HaltedAt.cpu_cycle {a : BitVec 12} {s : State} (h : HaltedAt a s) (hn : s.nextActivity = .cpu) :
    step s = .next { s.dequeued with opcode := s.fetchWord } := by
  have hexec : exec (.jp a) s.dequeued.fetched = .next { s.dequeued.fetched with pc := addrOperand a } := exec_jp a _
  rw [step_cpu h.run_eq hn, cycle_of_decodes (s := s.dequeued) h.pc_le h.decodes, hexec, h.addrOperand_eq]
  rfl

/-- Every step of a halted machine that does not end the run changes OPCODE, the agenda, the timers and KEY at most, and
the timers only by a timer tick. -/
theorem HaltedAt.running_step {a : BitVec 12} {s t : State} (h : HaltedAt a s) (hstep : step s = .next t)
    (hrun : t.run = .running) : Frame [.opcode, .agenda, .dt, .st, .key] s t ∧
      (s.nextActivity = .timer ∧ t.dt = tickDown s.dt ∧ t.st = tickDown s.st ∨
        s.nextActivity ≠ .timer ∧ t.dt = s.dt ∧ t.st = s.st) := by
  have hdequeued := frame_dequeued s
  cases hn : s.nextActivity with
  | cpu =>
    obtain rfl := Host.Outcome.next.inj ((h.cpu_cycle hn).symm.trans hstep)
    exact ⟨(hdequeued.append (frame_opcode _ _)).mono (by decide), .inr ⟨nofun, rfl, rfl⟩⟩
  | timer =>
    obtain rfl := Host.Outcome.next.inj ((step_activity h.run_eq hn).symm.trans hstep)
    exact ⟨(hdequeued.append (frame_timerTick _)).mono (by decide), .inl ⟨rfl, rfl, rfl⟩⟩
  | redraw failed =>
    obtain rfl := Host.Outcome.next.inj ((step_activity h.run_eq hn).symm.trans hstep)
    cases failed
    · exact ⟨hdequeued.mono (by decide), .inr ⟨nofun, rfl, rfl⟩⟩
    · cases hrun
  | input snapshot quit =>
    obtain rfl := Host.Outcome.next.inj ((step_activity h.run_eq hn).symm.trans hstep)
    cases quit
    · exact ⟨(hdequeued.append (frame_key _ snapshot)).mono (by decide), .inr ⟨nofun, rfl, rfl⟩⟩
    · cases hrun
  | inputFailure =>
    obtain rfl := Host.Outcome.next.inj ((step_activity h.run_eq hn).symm.trans hstep)
    cases hrun

/-- Settles O60: neither RUN nor `pc` nor memory is among what a step of a halted machine changes. -/
theorem haltedMachineStaysHalted : Obligations.HaltedMachineStaysHalted := by
  refine fun a s h => ⟨fun t hstep hrun => ?_, fun hn => ?_⟩
  · have hframe := (h.running_step hstep hrun).1
    exact ⟨h.of_frame hframe (by decide) (by decide) (by decide), hframe⟩
  · have hframe : Frame [.opcode, .agenda] s { s.dequeued with opcode := s.fetchWord } :=
      ((frame_dequeued s).append (frame_opcode _ _)).mono (by decide)
    exact ⟨_, h.cpu_cycle hn, h.of_frame hframe (by decide) (by decide) (by decide), hframe⟩

/-! ## Timers -/

theorem toNat_tickDown (b : Byte) : (tickDown b).toNat = b.toNat - 1 := by
  unfold tickDown
  split
  · next h => simp [h]
  · next h =>
    have hne : b.toNat ≠ 0 := fun e => h (BitVec.eq_of_toNat_eq e)
    have hle : (1 : Byte) ≤ b := BitVec.le_def.mpr (Nat.one_le_iff_ne_zero.mpr hne)
    rw [BitVec.toNat_sub_of_le hle]
    rfl

theorem tickDown_ne_zero {b : Byte} : tickDown b ≠ 0 ↔ 1 < b.toNat := by
  have hzero : (tickDown b).toNat = 0 ↔ tickDown b = 0 := BitVec.toNat_inj (y := 0)
  rw [ne_eq, ← hzero, toNat_tickDown]
  omega

/-- A count that never rises and again and again falls, unless it is 0, is 0 from some point on. -/
theorem eventually_zero {f : Nat → Nat} (hanti : Antitone f) (hfalls : ∀ n, ∃ m, n ≤ m ∧ f (m + 1) ≤ f m - 1) :
    ∃ n, ∀ m, n ≤ m → f m = 0 := by
  have hreach : ∀ k, ∃ n, f n ≤ f 0 - k := by
    intro k
    induction k with
    | zero => exact ⟨0, le_rfl⟩
    | succ k ih =>
      obtain ⟨n, hn⟩ := ih
      obtain ⟨m, hm, hfall⟩ := hfalls n
      have hle := hanti hm
      exact ⟨m + 1, by omega⟩
  obtain ⟨n, hn⟩ := hreach (f 0)
  exact ⟨n, fun m hm => by have hle := hanti hm; omega⟩

/-- Every step of an infinite run leads to Running: from Stopped the next one would not answer, and none leads to Idle. -/
theorem IsRun.step_next {r : Nat → State} (h : IsRun r) (n : Nat) :
    ∃ t g, step (r n) = .next t ∧ t.run = .running ∧ r (n + 1) = { t with agenda := g } := by
  obtain ⟨t, listed, hstep, hnext⟩ := h n
  obtain ⟨u, _, hstep', _⟩ := h (n + 1)
  have hstop : (r (n + 1)).run ≠ .stopped := (lifecycleNeverReturnsToIdle _ _ hstep').1
  have hidle : t.run ≠ .idle := (lifecycleNeverReturnsToIdle _ _ hstep).2
  refine ⟨t, _, hstep, ?_, hnext⟩
  rw [hnext] at hstop
  cases hrun : t.run with
  | idle => exact absurd hrun hidle
  | running => rfl
  | stopped => exact absurd hrun hstop

/-- An infinite run that starts halted stays halted. -/
theorem IsRun.halted {a : BitVec 12} {r : Nat → State} (h : IsRun r) (h0 : HaltedAt a (r 0)) (n : Nat) :
    HaltedAt a (r n) := by
  induction n with
  | zero => exact h0
  | succ n ih =>
    obtain ⟨t, g, hstep, hrun, hnext⟩ := h.step_next n
    rw [hnext]
    have hhalted : HaltedAt a t := ih.of_frame (ih.running_step hstep hrun).1 (by decide) (by decide) (by decide)
    exact hhalted

/-- Each step of such a run either ticks both timers or leaves them. -/
theorem IsRun.halted_timers {a : BitVec 12} {r : Nat → State} (h : IsRun r) (h0 : HaltedAt a (r 0)) (n : Nat) :
    ((r n).nextActivity = .timer ∧ (r (n + 1)).dt = tickDown (r n).dt ∧ (r (n + 1)).st = tickDown (r n).st) ∨
      (r n).nextActivity ≠ .timer ∧ (r (n + 1)).dt = (r n).dt ∧ (r (n + 1)).st = (r n).st := by
  have hhalted := h.halted h0 n
  obtain ⟨t, g, hstep, hrun, hnext⟩ := h.step_next n
  rw [hnext]
  exact (hhalted.running_step hstep hrun).2

theorem activityKind_eq_timer {act : Activity} : activityKind act = .timer ↔ act = .timer := by
  cases act <;> simp [activityKind]

theorem State.tone_iff (s : State) : s.tone = true ↔ s.st ≠ 0 := by
  rw [State.tone_eq_decide, decide_eq_true_iff]

/-- What is left to count down of DT and ST together. -/
def timersLeft (s : State) : Nat := s.dt.toNat + s.st.toNat

theorem timersLeft_eq_zero {s : State} : timersLeft s = 0 ↔ s.dt = 0 ∧ s.st = 0 :=
  Nat.add_eq_zero_iff.trans (and_congr (BitVec.toNat_inj (y := 0)) (BitVec.toNat_inj (y := 0)))

/-- In a run that starts halted the count never rises, and falls at every timer tick unless it is 0. -/
theorem IsRun.timersLeft_succ {a : BitVec 12} {r : Nat → State} (h : IsRun r) (h0 : HaltedAt a (r 0)) (n : Nat) :
    timersLeft (r (n + 1)) ≤ timersLeft (r n) ∧
      ((r n).nextActivity = .timer → timersLeft (r (n + 1)) ≤ timersLeft (r n) - 1) := by
  unfold timersLeft
  obtain ⟨-, hdt, hst⟩ | ⟨hact, hdt, hst⟩ := h.halted_timers h0 n
  · rw [hdt, hst, toNat_tickDown, toNat_tickDown]
    omega
  · rw [hdt, hst]
    exact ⟨le_rfl, fun e => absurd e hact⟩

/-- Fairness brings timer ticks again and again, so the count reaches 0 and stays there (R237). -/
theorem IsRun.timersLeft_eventually_zero {a : BitVec 12} {r : Nat → State} (h : IsRun r) (h0 : HaltedAt a (r 0))
    (hfair : WeaklyFair r) : ∃ n, ∀ m, n ≤ m → timersLeft (r m) = 0 := by
  refine eventually_zero (antitone_nat_of_succ_le fun n => (h.timersLeft_succ h0 n).1) fun n => ?_
  obtain ⟨m, hm, hkind⟩ := hfair .timer n
  exact ⟨m, hm, (h.timersLeft_succ h0 m).2 (activityKind_eq_timer.mp hkind)⟩

/-- Settles O41: one tick is read off `tickDown`, and in a fair run of a halted machine what is left of DT and ST runs
out. -/
theorem timerTickCountsDownToZero : Obligations.TimerTickCountsDownToZero := by
  refine ⟨fun s hr hn => ?_, State.tone_iff, fun a r h0 h hfair => ?_⟩
  · refine ⟨_, step_activity hr hn, toNat_tickDown s.dt, toNat_tickDown s.st, ?_, rfl,
      ((frame_dequeued s).append (frame_timerTick _)).mono (by decide)⟩
    rw [State.tone_eq_decide, decide_eq_decide]
    exact tickDown_ne_zero
  · obtain ⟨n, hn⟩ := h.timersLeft_eventually_zero h0 hfair
    refine ⟨n, fun m hm => ?_⟩
    obtain ⟨hdt, hst⟩ := timersLeft_eq_zero.mp (hn m hm)
    exact ⟨hdt, hst, by rw [State.tone_eq_decide, hst]; rfl⟩

end Sys2Proof.Machine
end
